-- ==== Sys2Proof/Word.lean ====
section
/-! DEFINITION. The word types of the core (00_scope.md R5, R6; 10_state.md R10, R11) and the index types of its
arrays. All values are unsigned. Laws/Config.lean proves each type's size equal to the parameter of Config it comes from. -/

namespace Sys2Proof

/-- An 8-bit value: a register V0..VF, a timer, a byte of MEM, an immediate NN. -/
abbrev Byte := BitVec 8

/-- A 16-bit value: PC, I, a stack slot, the OPCODE latch, an instruction word. -/
abbrev Word := BitVec 16

/-- A 12-bit absolute address, the operand NNN. -/
abbrev Addr := BitVec 12

/-- The index of a general register V0..VF (R11: "each register addressed by a 4-bit index"). -/
abbrev Reg := Fin 16

/-- A column of FB, 0 to 63 from the left (10_state.md R20). -/
abbrev Column := Fin 64

/-- A row of FB, 0 to 31 from the top (R20). -/
abbrev Row := Fin 32

/-- The index of a stack slot, 0 to 15 (R18). -/
abbrev Slot := Fin 16

/-- A value of SP, 0 to 16: how many slots are occupied (R18). -/
abbrev SpCount := Fin 17

/-- The index of a key, 0 to 15 (R21). -/
abbrev Key := Fin 16

/-- VF, the one flag register (R5 `FLAG_REG`, R12, R14). -/
abbrev Reg.F : Reg := 15

end Sys2Proof
end

