-- ==== Sys2Proof/Syntax.lean ====
section
/-! DEFINITION. The 34 instructions of 30_encoding.md R64, one constructor per row of spec/opcode_table.json, with the
operands of 00_scope.md R7 and 30_encoding.md R62. Bits the decoder ignores (R65) are no operands. -/

namespace Sys2Proof

/-- An instruction. `x`, `y` are register indexes, `nn` an immediate byte, `nnn` an absolute address, `n` a row count
(a number, checked by `Instr.wellFormed`). -/
inductive Instr where
  /-- 00E0, clear the frame buffer (R91). -/
  | cls
  /-- 00EE, return from subroutine (R101). -/
  | ret
  /-- 1NNN, jump (R102). -/
  | jp (nnn : Addr)
  /-- 2NNN, call subroutine (R103). -/
  | call (nnn : Addr)
  /-- 3XNN, skip if V[X] = NN (R111). -/
  | seImm (x : Reg) (nn : Byte)
  /-- 4XNN, skip if V[X] ≠ NN (R112). -/
  | sneImm (x : Reg) (nn : Byte)
  /-- 5XY0, skip if V[X] = V[Y] (R113). -/
  | seReg (x y : Reg)
  /-- 6XNN, load immediate (R121). -/
  | ldImm (x : Reg) (nn : Byte)
  /-- 7XNN, add immediate, no flag (R122). -/
  | addImm (x : Reg) (nn : Byte)
  /-- 8XY0, copy register (R123). -/
  | ldReg (x y : Reg)
  /-- 8XY1, bitwise or (R124). -/
  | orReg (x y : Reg)
  /-- 8XY2, bitwise and (R125). -/
  | andReg (x y : Reg)
  /-- 8XY3, bitwise exclusive or (R126). -/
  | xorReg (x y : Reg)
  /-- 8XY4, add, VF = carry (R127). -/
  | addReg (x y : Reg)
  /-- 8XY5, V[X] - V[Y], VF = no borrow (R128). -/
  | sub (x y : Reg)
  /-- 8XY6, shift right in place, VF = bit out (R129). `y` is decoded and unused. -/
  | shr (x y : Reg)
  /-- 8XY7, V[Y] - V[X], VF = no borrow (R130). -/
  | subn (x y : Reg)
  /-- 8XYE, shift left in place, VF = bit out (R131). `y` is decoded and unused. -/
  | shl (x y : Reg)
  /-- 9XY0, skip if V[X] ≠ V[Y] (R114). -/
  | sneReg (x y : Reg)
  /-- ANNN, load I (R140). -/
  | ldI (nnn : Addr)
  /-- BNNN, jump to NNN + V0 (R104). -/
  | jpV0 (nnn : Addr)
  /-- CXNN, random byte and NN (R132). -/
  | rnd (x : Reg) (nn : Byte)
  /-- DXYN, draw an N-row sprite, VF = collision (R92). -/
  | drw (x y : Reg) (n : Nat)
  /-- EX9E, skip if key V[X] pressed (R151). -/
  | skp (x : Reg)
  /-- EXA1, skip if key V[X] released (R152). -/
  | sknp (x : Reg)
  /-- FX07, read the delay timer (R161). -/
  | ldVxDt (x : Reg)
  /-- FX0A, wait for a key (R153). -/
  | ldVxK (x : Reg)
  /-- FX15, set the delay timer (R162). -/
  | ldDtVx (x : Reg)
  /-- FX18, set the sound timer (R163). -/
  | ldStVx (x : Reg)
  /-- FX1E, add V[X] to I, VF = overflow (R142). -/
  | addI (x : Reg)
  /-- FX29, I = address of glyph V[X] (R143). -/
  | ldF (x : Reg)
  /-- FX33, store the decimal digits of V[X] (R144). -/
  | ldB (x : Reg)
  /-- FX55, store V0..VX (R145). -/
  | stRegs (x : Reg)
  /-- FX65, load V0..VX (R146). -/
  | ldRegs (x : Reg)
  deriving DecidableEq, Repr

end Sys2Proof
end

