-- ==== Sys2Proof/Decode.lean ====
section
/-! DEFINITION. Decoding (30_encoding.md R60 to R66) and encoding (R61, R64, R69). The decoder is total: every one of
the 65536 words selects one instruction or is refused by the name of the family it is unknown in (R66). -/

namespace Sys2Proof

/-- The top nibble opcode[15:12], the first dispatch key (R63). -/
def topNibble (w : Word) : BitVec 4 := w.extractLsb' 12 4

/-- X = opcode[11:8] as a register index (00_scope.md R7). -/
def fieldX (w : Word) : Reg := ⟨(w.extractLsb' 8 4).toNat, (w.extractLsb' 8 4).isLt⟩

/-- Y = opcode[7:4] as a register index (R7). -/
def fieldY (w : Word) : Reg := ⟨(w.extractLsb' 4 4).toNat, (w.extractLsb' 4 4).isLt⟩

/-- opcode[3:0], the operand N and the second dispatch key of family 8 (R7, R63). -/
def lowNibble (w : Word) : BitVec 4 := w.extractLsb' 0 4

/-- N = opcode[3:0] as a row count (R7, R62). -/
def fieldN (w : Word) : Nat := (lowNibble w).toNat

/-- NN = opcode[7:0], an immediate and the second dispatch key of families 0, E and F (R7, R63). -/
def fieldNN (w : Word) : Byte := w.extractLsb' 0 8

/-- NNN = opcode[11:0] (R7). -/
def fieldNNN (w : Word) : Addr := w.extractLsb' 0 12

/-- Why a word is unknown: the family whose second key it does not match (R66). -/
inductive UnknownWord where
  /-- Top nibble 0, low byte neither E0 nor EE. -/
  | family0
  /-- Top nibble 8, low nibble 8 to D or F. -/
  | family8
  /-- Top nibble E, low byte neither 9E nor A1. -/
  | familyE
  /-- Top nibble F, low byte none of the nine. -/
  | familyF
  deriving DecidableEq, Repr

/-- Family 0 on the low byte; bits 11:8 are ignored (R63, R65; DESIGN CHOICE of the spec, log 12). -/
def decodeFamily0 (w : Word) : Except UnknownWord Instr :=
  match fieldNN w with
  | 0xE0 => .ok .cls
  | 0xEE => .ok .ret
  | _ => .error .family0

/-- Family 8 on the low nibble (R63). -/
def decodeFamily8 (w : Word) : Except UnknownWord Instr :=
  match lowNibble w with
  | 0x0 => .ok (.ldReg (fieldX w) (fieldY w))
  | 0x1 => .ok (.orReg (fieldX w) (fieldY w))
  | 0x2 => .ok (.andReg (fieldX w) (fieldY w))
  | 0x3 => .ok (.xorReg (fieldX w) (fieldY w))
  | 0x4 => .ok (.addReg (fieldX w) (fieldY w))
  | 0x5 => .ok (.sub (fieldX w) (fieldY w))
  | 0x6 => .ok (.shr (fieldX w) (fieldY w))
  | 0x7 => .ok (.subn (fieldX w) (fieldY w))
  | 0xE => .ok (.shl (fieldX w) (fieldY w))
  | _ => .error .family8

/-- Family E on the low byte (R63). -/
def decodeFamilyE (w : Word) : Except UnknownWord Instr :=
  match fieldNN w with
  | 0x9E => .ok (.skp (fieldX w))
  | 0xA1 => .ok (.sknp (fieldX w))
  | _ => .error .familyE

/-- Family F on the low byte (R63). -/
def decodeFamilyF (w : Word) : Except UnknownWord Instr :=
  match fieldNN w with
  | 0x07 => .ok (.ldVxDt (fieldX w))
  | 0x0A => .ok (.ldVxK (fieldX w))
  | 0x15 => .ok (.ldDtVx (fieldX w))
  | 0x18 => .ok (.ldStVx (fieldX w))
  | 0x1E => .ok (.addI (fieldX w))
  | 0x29 => .ok (.ldF (fieldX w))
  | 0x33 => .ok (.ldB (fieldX w))
  | 0x55 => .ok (.stRegs (fieldX w))
  | 0x65 => .ok (.ldRegs (fieldX w))
  | _ => .error .familyF

/-- The two-level dispatch of R63. In families 5 and 9 the low nibble is not examined (R65; log 12). The last case is
top nibble F. -/
def decode (w : Word) : Except UnknownWord Instr :=
  match topNibble w with
  | 0x0 => decodeFamily0 w
  | 0x1 => .ok (.jp (fieldNNN w))
  | 0x2 => .ok (.call (fieldNNN w))
  | 0x3 => .ok (.seImm (fieldX w) (fieldNN w))
  | 0x4 => .ok (.sneImm (fieldX w) (fieldNN w))
  | 0x5 => .ok (.seReg (fieldX w) (fieldY w))
  | 0x6 => .ok (.ldImm (fieldX w) (fieldNN w))
  | 0x7 => .ok (.addImm (fieldX w) (fieldNN w))
  | 0x8 => decodeFamily8 w
  | 0x9 => .ok (.sneReg (fieldX w) (fieldY w))
  | 0xA => .ok (.ldI (fieldNNN w))
  | 0xB => .ok (.jpV0 (fieldNNN w))
  | 0xC => .ok (.rnd (fieldX w) (fieldNN w))
  | 0xD => .ok (.drw (fieldX w) (fieldY w) (fieldN w))
  | 0xE => decodeFamilyE w
  | _ => decodeFamilyF w

/-- The instruction word of two bytes of memory, the byte at the lower address first and most significant
(20_memory.md R43). -/
def wordOfBytes (hi lo : Byte) : Word := hi ++ lo

/-- The instruction two bytes of memory hold. -/
def decodeBytes (hi lo : Byte) : Except UnknownWord Instr := decode (wordOfBytes hi lo)

/-- The byte of a word that is stored at the lower address (R43). -/
def highByte (w : Word) : Byte := w.extractLsb' 8 8

/-- The byte of a word that is stored at the higher address (R43). -/
def lowByte (w : Word) : Byte := w.extractLsb' 0 8

/-- The decoder's answer for a row of spec/opcode_table.json: the row's word `w` (bit 0 least significant) has `nbits`
bits; it is laid out as two bytes, high byte first, and decoded. -/
def decodeTableWord (nbits w : Nat) : Option Instr :=
  let word : Word := BitVec.ofNat 16 (w % 2 ^ nbits)
  match decodeBytes (highByte word) (lowByte word) with
  | .ok i => some i
  | .error _ => none

/-- A row of the opcode map (R64): a word selects it exactly when `w &&& mask = value`. -/
structure OpcodeRow where
  /-- The bits the row fixes. -/
  mask : Word
  /-- Their values (the column "match"). -/
  value : Word
  /-- The instruction, its fields read from the word (00_scope.md R7). -/
  instr : Word → Instr

/-- R64, families 0 to 7. -/
def opcodeRows0to7 : List OpcodeRow :=
  [⟨0xF0FF, 0x00E0, fun _ => .cls⟩,
   ⟨0xF0FF, 0x00EE, fun _ => .ret⟩,
   ⟨0xF000, 0x1000, fun w => .jp (fieldNNN w)⟩,
   ⟨0xF000, 0x2000, fun w => .call (fieldNNN w)⟩,
   ⟨0xF000, 0x3000, fun w => .seImm (fieldX w) (fieldNN w)⟩,
   ⟨0xF000, 0x4000, fun w => .sneImm (fieldX w) (fieldNN w)⟩,
   ⟨0xF000, 0x5000, fun w => .seReg (fieldX w) (fieldY w)⟩,
   ⟨0xF000, 0x6000, fun w => .ldImm (fieldX w) (fieldNN w)⟩,
   ⟨0xF000, 0x7000, fun w => .addImm (fieldX w) (fieldNN w)⟩]

/-- R64, family 8. -/
def opcodeRows8 : List OpcodeRow :=
  [⟨0xF00F, 0x8000, fun w => .ldReg (fieldX w) (fieldY w)⟩,
   ⟨0xF00F, 0x8001, fun w => .orReg (fieldX w) (fieldY w)⟩,
   ⟨0xF00F, 0x8002, fun w => .andReg (fieldX w) (fieldY w)⟩,
   ⟨0xF00F, 0x8003, fun w => .xorReg (fieldX w) (fieldY w)⟩,
   ⟨0xF00F, 0x8004, fun w => .addReg (fieldX w) (fieldY w)⟩,
   ⟨0xF00F, 0x8005, fun w => .sub (fieldX w) (fieldY w)⟩,
   ⟨0xF00F, 0x8006, fun w => .shr (fieldX w) (fieldY w)⟩,
   ⟨0xF00F, 0x8007, fun w => .subn (fieldX w) (fieldY w)⟩,
   ⟨0xF00F, 0x800E, fun w => .shl (fieldX w) (fieldY w)⟩]

/-- R64, families 9 to F. -/
def opcodeRows9toF : List OpcodeRow :=
  [⟨0xF000, 0x9000, fun w => .sneReg (fieldX w) (fieldY w)⟩,
   ⟨0xF000, 0xA000, fun w => .ldI (fieldNNN w)⟩,
   ⟨0xF000, 0xB000, fun w => .jpV0 (fieldNNN w)⟩,
   ⟨0xF000, 0xC000, fun w => .rnd (fieldX w) (fieldNN w)⟩,
   ⟨0xF000, 0xD000, fun w => .drw (fieldX w) (fieldY w) (fieldN w)⟩,
   ⟨0xF0FF, 0xE09E, fun w => .skp (fieldX w)⟩,
   ⟨0xF0FF, 0xE0A1, fun w => .sknp (fieldX w)⟩,
   ⟨0xF0FF, 0xF007, fun w => .ldVxDt (fieldX w)⟩,
   ⟨0xF0FF, 0xF00A, fun w => .ldVxK (fieldX w)⟩,
   ⟨0xF0FF, 0xF015, fun w => .ldDtVx (fieldX w)⟩,
   ⟨0xF0FF, 0xF018, fun w => .ldStVx (fieldX w)⟩,
   ⟨0xF0FF, 0xF01E, fun w => .addI (fieldX w)⟩,
   ⟨0xF0FF, 0xF029, fun w => .ldF (fieldX w)⟩,
   ⟨0xF0FF, 0xF033, fun w => .ldB (fieldX w)⟩,
   ⟨0xF0FF, 0xF055, fun w => .stRegs (fieldX w)⟩,
   ⟨0xF0FF, 0xF065, fun w => .ldRegs (fieldX w)⟩]

/-- The complete opcode map of R64, a second description of decoding beside the dispatch of R63. -/
def opcodeRows : List OpcodeRow := opcodeRows0to7 ++ (opcodeRows8 ++ opcodeRows9toF)

/-- A register index as a 4-bit field. -/
def Reg.field (x : Reg) : BitVec 4 := BitVec.ofNat 4 x.val

/-- Format A: op, NNN (R61). -/
def formatA (op : BitVec 4) (nnn : Addr) : Word := op ++ nnn

/-- Formats I, X and Z: op, X, low byte (R61). -/
def formatX (op : BitVec 4) (x : Reg) (low : Byte) : Word := op ++ (x.field ++ low)

/-- Formats R and D: op, X, Y, low nibble (R61). -/
def formatR (op : BitVec 4) (x y : Reg) (low : BitVec 4) : Word := op ++ (x.field ++ (y.field ++ low))

/-- The canonical word of an instruction: R69's column "encoding of the operands", ignored bits 0. -/
def encode : Instr → Word
  | .cls => 0x00E0
  | .ret => 0x00EE
  | .jp nnn => formatA 0x1 nnn
  | .call nnn => formatA 0x2 nnn
  | .seImm x nn => formatX 0x3 x nn
  | .sneImm x nn => formatX 0x4 x nn
  | .seReg x y => formatR 0x5 x y 0x0
  | .ldImm x nn => formatX 0x6 x nn
  | .addImm x nn => formatX 0x7 x nn
  | .ldReg x y => formatR 0x8 x y 0x0
  | .orReg x y => formatR 0x8 x y 0x1
  | .andReg x y => formatR 0x8 x y 0x2
  | .xorReg x y => formatR 0x8 x y 0x3
  | .addReg x y => formatR 0x8 x y 0x4
  | .sub x y => formatR 0x8 x y 0x5
  | .shr x y => formatR 0x8 x y 0x6
  | .subn x y => formatR 0x8 x y 0x7
  | .shl x y => formatR 0x8 x y 0xE
  | .sneReg x y => formatR 0x9 x y 0x0
  | .ldI nnn => formatA 0xA nnn
  | .jpV0 nnn => formatA 0xB nnn
  | .rnd x nn => formatX 0xC x nn
  | .drw x y n => formatR 0xD x y (BitVec.ofNat 4 n)
  | .skp x => formatX 0xE x 0x9E
  | .sknp x => formatX 0xE x 0xA1
  | .ldVxDt x => formatX 0xF x 0x07
  | .ldVxK x => formatX 0xF x 0x0A
  | .ldDtVx x => formatX 0xF x 0x15
  | .ldStVx x => formatX 0xF x 0x18
  | .addI x => formatX 0xF x 0x1E
  | .ldF x => formatX 0xF x 0x29
  | .ldB x => formatX 0xF x 0x33
  | .stRegs x => formatX 0xF x 0x55
  | .ldRegs x => formatX 0xF x 0x65

end Sys2Proof
end

