-- ==== Sys2Proof/Config.lean ====
section
/-! DEFINITION. The implementation parameters of 00_scope.md R5, each a named constant with this hardware's value, the
glyph font, and the free values. Arrays of State take their sizes from here; the widths of Word.lean's types, which are
numerals there, are proved equal to these in Laws/Config.lean. The four policy parameters are read by one definition each,
which gives the other value's meaning too (log 26). -/

namespace Sys2Proof.Config

/-- `MEM_SIZE`. -/
@[simp] abbrev memSize : Nat := 4096

/-- `ADDR_BITS`, the width of the memory address port and of NNN. -/
@[simp] abbrev addrBits : Nat := 12

/-- The width of a register V0..VF (R5 `NREGS`: "16 registers V0..VF of 8 bits") and of a byte of MEM. -/
@[simp] abbrev regBits : Nat := 8

/-- `NREGS`. -/
@[simp] abbrev nRegs : Nat := 16

/-- `FLAG_REG`, the number of VF; `Reg.F` is the register. -/
@[simp] abbrev flagReg : Nat := 15

/-- `I_BITS`, the bits I is stored in. -/
@[simp] abbrev iBits : Nat := 16

/-- `PC_BITS`, the width of PC and of a stack slot. -/
@[simp] abbrev pcBits : Nat := 16

/-- `TIMER_BITS`, the width of DT and of ST. -/
@[simp] abbrev timerBits : Nat := 8

/-- `INSN_BYTES`, as a distance of PC. -/
@[simp] abbrev insnBytes : Word := 2

/-- `FONT_BASE`. -/
@[simp] abbrev fontBase : Nat := 0x000

/-- `FONT_SIZE`: 16 glyphs of 5 bytes. -/
@[simp] abbrev fontSize : Nat := 80

/-- `GLYPH_BYTES`. -/
@[simp] abbrev glyphBytes : Nat := 5

/-- `PROG_BASE`. -/
@[simp] abbrev progBase : Nat := 0x200

/-- `PROG_MAX`, 4096 - 512. -/
@[simp] abbrev progMax : Nat := 3584

/-- `PC_RESET`. -/
@[simp] abbrev pcReset : Word := 0x200

/-- `STACK_DEPTH`. -/
@[simp] abbrev stackDepth : Nat := 16

/-- `FB_W`. -/
@[simp] abbrev fbWidth : Nat := 64

/-- `FB_H`. -/
@[simp] abbrev fbHeight : Nat := 32

/-- `NKEYS`. -/
@[simp] abbrev nKeys : Nat := 16

/-- The modulus of FX1E (R15: I "wraps modulo 0x1000"). -/
@[simp] abbrev indexMod : Nat := 0x1000

/-- The values of `OOB_POLICY` (00_scope.md R5; 92_eei_decisions.md D3). -/
inductive OobPolicy where
  /-- An address above 4095 is reduced mod 4096. -/
  | wrap
  /-- A cycle that uses an address above 4095 has no step. -/
  | refuse
  deriving DecidableEq, Repr

/-- The values of `KEY_INDEX_POLICY` (R5; D5). -/
inductive KeyIndexPolicy where
  /-- EX9E and EXA1 select slot V[X] mod 16. -/
  | lowNibble
  /-- EX9E and EXA1 with V[X] above 15 have no step. -/
  | refuse
  deriving DecidableEq, Repr

/-- `RESET_CLEARS`: RESET zeroes V, STACK, FB, KEY and MEM outside the font. Read by `State.cleared`. -/
@[simp] abbrev resetClears : Bool := true

/-- `OOB_POLICY`. Read by `guardAccess`. -/
@[simp] abbrev oobPolicy : OobPolicy := .wrap

/-- `KEY_INDEX_POLICY`. Read by `guardKey`. -/
@[simp] abbrev keyIndexPolicy : KeyIndexPolicy := .lowNibble

/-- `TICK_ON_ERROR`: the tick runs in cycles that report an error. Read by `State.endCycle`. -/
@[simp] abbrev tickOnError : Bool := true

/-- `FONT`, the 80 glyph bytes in address order, row 0 of glyph 0 first. The table is 10_state.md R31's default, which
the spec takes from general knowledge. PRESUMED, log 3: unsafe for a claim that reads a font byte. -/
def font : List Byte :=
  [0xF0, 0x90, 0x90, 0x90, 0xF0] ++   -- 0
  [0x20, 0x60, 0x20, 0x20, 0x70] ++   -- 1
  [0xF0, 0x10, 0xF0, 0x80, 0xF0] ++   -- 2
  [0xF0, 0x10, 0xF0, 0x10, 0xF0] ++   -- 3
  [0x90, 0x90, 0xF0, 0x10, 0x10] ++   -- 4
  [0xF0, 0x80, 0xF0, 0x10, 0xF0] ++   -- 5
  [0xF0, 0x80, 0xF0, 0x90, 0xF0] ++   -- 6
  [0xF0, 0x10, 0x20, 0x40, 0x40] ++   -- 7
  [0xF0, 0x90, 0xF0, 0x90, 0xF0] ++   -- 8
  [0xF0, 0x90, 0xF0, 0x10, 0xF0] ++   -- 9
  [0xF0, 0x90, 0xF0, 0x90, 0x90] ++   -- A
  [0xE0, 0x90, 0xE0, 0x90, 0xE0] ++   -- B
  [0xF0, 0x80, 0x80, 0x80, 0xF0] ++   -- C
  [0xE0, 0x90, 0x90, 0x90, 0xE0] ++   -- D
  [0xF0, 0x80, 0xF0, 0x80, 0xF0] ++   -- E
  [0xF0, 0x80, 0xF0, 0x80, 0x80]      -- F

/-- The bytes that arrive on the RND input, by draw: a free value (10_state.md R33: "a model must let it be any value
0..255, independently in every cycle"). It has no body, so nothing can be proved of a value of it. DESIGN CHOICE, log 1:
safe. -/
opaque rndByte : Nat → Byte

/-! What RESET leaves where `RESET_CLEARS` is false: free values ("those values are unspecified after RESET", R5). This
hardware clears, so no state holds one of them (log 26). -/

/-- V[k] after a RESET that does not clear. -/
opaque unclearedV : Nat → Byte

/-- STACK[k] after a RESET that does not clear. -/
opaque unclearedStack : Nat → Word

/-- The cell (x, y) after a RESET that does not clear. -/
opaque unclearedCell : Nat → Nat → Bool

/-- KEY[k] after a RESET that does not clear. -/
opaque unclearedKey : Nat → Bool

/-- MEM[a], outside the font, after a RESET that does not clear. -/
opaque unclearedByte : Nat → Byte

end Sys2Proof.Config
end

