-- ==== Sys2Proof/Machine/State.lean ====
section
/-! DEFINITION. The state of the core (10_state.md R10) as plain data, the outputs and inputs of a cycle beside it
(R33, R34), the reasons a step could stop, and the state right after RESET (70_reset_and_hazards.md R200). -/

namespace Sys2Proof.Machine

/-- MEM as the cells that differ from the reset image, addresses strictly rising (`Memory.wf`). -/
abbrev Memory := List Host.Cell

/-- The ERR output of a cycle (R34; 60_exceptions.md R170). -/
inductive Err where
  /-- No error in this cycle. -/
  | none
  /-- The fetched word is no instruction (R171). -/
  | unknownOpcode (op : Word)
  /-- 2NNN with SP = 16 (R174). -/
  | stackOverflow
  deriving DecidableEq, Repr

/-- What stops the machine for good: nothing. "There are no fatal conditions inside the core" (60_exceptions.md R170) and
the cycle is a total function (40_cycle.md R86), so the type has no constructor and no step answers a fault. The two
errors of the core are next states (`Err`). Safe: the model stops nowhere the hardware goes on. -/
inductive Fault where
  deriving DecidableEq, Repr

/-- Why a step may have no meaning. -/
inductive Refusal where
  /-- Raised by an arm of `exec` whose instruction has no meaning yet. No arm does: every row of the opcode table has its
  meaning. Safe. -/
  | notModelled (mnemonic : String)
  /-- Raised by `guardAccess` where `OOB_POLICY` is refuse, for a cycle that uses an address above 4095. On this hardware
  the policy is wrap and nothing raises it (00_scope.md R5; log 26). Safe. -/
  | addressOutOfRange
  /-- Raised by `guardKey` where `KEY_INDEX_POLICY` is refuse, for EX9E or EXA1 with V[X] above 15. On this hardware the
  policy is low_nibble and nothing raises it (R5; log 26). Safe. -/
  | keyIndexOutOfRange
  deriving DecidableEq, Repr

/-- The machine. The first eleven fields are the whole state of the core (R10); the other five are the model's: the
outputs of the cycle just run, the record that a cycle went wrong, and the random input. -/
structure State where
  /-- MEM, 4096 bytes (R23). -/
  mem : Memory
  /-- V0..VF; VF is slot 15 of this one array (R11, R12). -/
  v : Vector Byte Config.nRegs
  /-- I, 16 bits stored (R15). -/
  i : Word
  /-- PC (R16). -/
  pc : Word
  /-- SP, the number of occupied slots, 0 to 16 (R18). -/
  sp : SpCount
  /-- STACK, 16 return addresses (R18). -/
  stack : Vector Word Config.stackDepth
  /-- DT, the delay timer (R19). -/
  dt : Byte
  /-- ST, the sound timer (R19). -/
  st : Byte
  /-- FB, 32 rows of 64 cells, row 0 and column 0 first (R20). -/
  fb : Vector (Vector Bool Config.fbWidth) Config.fbHeight
  /-- KEY, true = pressed (R21). -/
  key : Vector Bool Config.nKeys
  /-- OPCODE, the word the last fetch read (R22). -/
  opcode : Word
  /-- The ERR output of the cycle just run (R34). Not state of the core: every cycle overwrites it. -/
  err : Err
  /-- The SOUND_EDGE output of the cycle just run (R34, R181). Not state of the core: every cycle overwrites it. -/
  soundEdge : Bool
  /-- The fault bit: some cycle reported an error (60_exceptions.md R173: "fault bit set and never cleared"). The model's own
  record, which neither a cycle nor a host operation clears. -/
  wentWrong : Bool
  /-- The RND input: the byte the next CXNN samples (R33). An input, held here as plain data. -/
  rnd : Byte
  /-- How many draws have been made: the index behind the free byte on RND. The model's own. -/
  rndDraws : Nat
  deriving DecidableEq, Repr

/-- The frame buffer with every cell 0. -/
def clearedFb : Vector (Vector Bool Config.fbWidth) Config.fbHeight :=
  Vector.replicate Config.fbHeight (Vector.replicate Config.fbWidth false)

/-- What RESET leaves of an array of `RESET_CLEARS`: cleared, or unspecified where the parameter is false (00_scope.md R5;
70_reset_and_hazards.md R200; the spec's decision D2, logs 2 and 26). -/
def State.cleared {α : Type} (zeroed unspecified : α) : α :=
  match Config.resetClears with
  | true => zeroed
  | false => unspecified

/-- The state after RESET (R200): PC = 0x200, everything else 0 or released, MEM the reset image (nothing listed). The
random input holds the free byte of draw 0 (DESIGN CHOICE, log 1). -/
def State.reset : State where
  mem := []
  v := State.cleared (Vector.replicate Config.nRegs 0) (Vector.ofFn fun k => Config.unclearedV k.val)
  i := 0
  pc := Config.pcReset
  sp := 0
  stack := State.cleared (Vector.replicate Config.stackDepth 0) (Vector.ofFn fun k => Config.unclearedStack k.val)
  dt := 0
  st := 0
  fb := State.cleared clearedFb (Vector.ofFn fun y => Vector.ofFn fun x => Config.unclearedCell x.val y.val)
  key := State.cleared (Vector.replicate Config.nKeys false) (Vector.ofFn fun k => Config.unclearedKey k.val)
  opcode := 0
  err := .none
  soundEdge := false
  wentWrong := false
  rnd := Config.rndByte 0
  rndDraws := 0

end Sys2Proof.Machine
end

