-- ==== Sys2Proof/Machine/Ops.lean ====
section
/-! DEFINITION. The named operations every meaning is written over (00_scope.md R8): memory, registers, PC, stack,
frame buffer, key latch, raising an error, and the timer tick. -/

namespace Sys2Proof.Machine

/-! ### MEM (20_memory.md) -/

/-- What an address not listed in `Memory` reads as: the reset image, FONT at 0x000..0x04F and 0 elsewhere (R41;
70_reset_and_hazards.md R200). Zero outside the font is the spec's decision D2: DESIGN CHOICE, log 2; the list form: log 18. -/
def Memory.unlisted (a : Nat) : Byte :=
  if Config.fontBase ≤ a ∧ a < Config.fontBase + Config.fontSize then Config.font.getD (a - Config.fontBase) 0
  else State.cleared 0 (Config.unclearedByte a)

/-- The byte at index `a` of MEM. -/
def Memory.read : Memory → Nat → Byte
  | [], a => Memory.unlisted a
  | (k, b) :: rest, a => if k = a then b else Memory.read rest a

/-- The list without any entry for `a`. -/
def Memory.erase : Memory → Nat → Memory
  | [], _ => []
  | (k, b) :: rest, a => if k = a then Memory.erase rest a else (k, b) :: Memory.erase rest a

/-- The list with an entry for `a` put before the first greater address. -/
def Memory.place : Memory → Nat → Byte → Memory
  | [], a, b => [(a, b)]
  | (k, c) :: rest, a, b => if a < k then (a, b) :: (k, c) :: rest else (k, c) :: Memory.place rest a b

/-- Store a byte at index `a`, keeping the canonical form: a byte equal to the reset image is not listed. -/
def Memory.write (m : Memory) (a : Nat) (b : Byte) : Memory :=
  if b = Memory.unlisted a then Memory.erase m a else Memory.place (Memory.erase m a) a b

/-- Canonical from address `lo` on: addresses strictly rising, inside MEM, and no entry equal to the reset image. -/
def Memory.wfFrom : Nat → Memory → Bool
  | _, [] => true
  | lo, (k, b) :: rest =>
    decide (lo ≤ k) && decide (k < Config.memSize) && decide (b ≠ Memory.unlisted k) && Memory.wfFrom (k + 1) rest

/-- The canonical form of MEM. -/
def Memory.wf (m : Memory) : Bool := Memory.wfFrom 0 m

/-- The 12-bit address port: every address is reduced mod 4096 (R45, R46; the spec's decision D3: DESIGN CHOICE, log 4,
unsafe against an implementation that does not wrap). -/
def memIndex (addr : Nat) : Nat := addr % Config.memSize

/-- `MemRead(addr, 1)` (R45). -/
def State.memRead (s : State) (addr : Nat) : Byte := Memory.read s.mem (memIndex addr)

/-- `MemWrite(addr, 1, b)` (R46): no range is protected and nothing fails. -/
def State.memWrite (s : State) (addr : Nat) (b : Byte) : State :=
  { s with mem := Memory.write s.mem (memIndex addr) b }

/-- A cycle, or the executor phase of an instruction, that uses the `count` addresses from `base` up: it goes on as `o`
says, unless `OOB_POLICY` is refuse and one of them is above 4095 (00_scope.md R5; the spec's decision D3, log 26). -/
def guardAccess (base count : Nat) (o : Host.Outcome State Fault Refusal) : Host.Outcome State Fault Refusal :=
  match Config.oobPolicy with
  | .wrap => o
  | .refuse => if count = 0 ∨ base + count ≤ Config.memSize then o else .refused .addressOutOfRange

/-! ### Registers (10_state.md) -/

/-- `V[x]` (R11). -/
def State.getV (s : State) (x : Reg) : Byte := s.v[x.val]

/-- `V[x] <- b` (R11). -/
def State.setV (s : State) (x : Reg) (b : Byte) : State := { s with v := s.v.set x.val b }

/-- `I <- w` (R15). -/
def State.setI (s : State) (w : Word) : State := { s with i := w }

/-- `DT <- b` (R19). -/
def State.setDt (s : State) (b : Byte) : State := { s with dt := b }

/-- `ST <- b` (R19). -/
def State.setSt (s : State) (b : Byte) : State := { s with st := b }

/-- `PC <- w`; a Word is already reduced mod 65536 (R16; the spec's decision D4: DESIGN CHOICE, log 5). -/
def State.setPc (s : State) (w : Word) : State := { s with pc := w }

/-- `PC <- PC + 2`, to the next instruction (R16). -/
def State.advance (s : State) : State := s.setPc (s.pc + Config.insnBytes)

/-- `PC <- PC + (c ? 4 : 2)`, a skip: it "steps over exactly one 2-byte instruction" (43_skip.md R110). -/
def State.skipIf (s : State) (c : Bool) : State :=
  s.setPc (s.pc + if c then 2 * Config.insnBytes else Config.insnBytes)

/-! ### Stack (R18) -/

/-- `STACK[k]`, `k` being 0 to 15. -/
def State.stackRead (s : State) (k : Slot) : Word := s.stack[k.val]

/-- `STACK[k] <- w`. -/
def State.stackWrite (s : State) (k : Slot) (w : Word) : State := { s with stack := s.stack.set k.val w }

/-- `SP <- n`. -/
def State.setSp (s : State) (n : SpCount) : State := { s with sp := n }

/-- The stack slot SP names. Every use has SP < 16, where it is SP itself (42_flow.md R101, R103). -/
def State.spSlot (s : State) : Slot := Fin.ofNat Config.stackDepth s.sp.val

/-- Push a return address: `STACK[SP] <- w`, then `SP <- SP + 1`. Used with SP < 16. -/
def State.push (s : State) (w : Word) : State :=
  (s.stackWrite s.spSlot w).setSp (Fin.ofNat (Config.stackDepth + 1) (s.sp.val + 1))

/-- `if SP > 0: SP <- SP - 1`; the slot keeps its contents. -/
def State.popSp (s : State) : State :=
  if s.sp.val > 0 then s.setSp (Fin.ofNat (Config.stackDepth + 1) (s.sp.val - 1)) else s

/-! ### Frame buffer (R20) -/

/-- `FB[x + y*64]`. -/
def State.getCell (s : State) (x : Column) (y : Row) : Bool := s.fb[y.val][x.val]

/-- `FB[x + y*64] <- b`. -/
def State.setCell (s : State) (x : Column) (y : Row) (b : Bool) : State :=
  { s with fb := s.fb.set y.val (s.fb[y.val].set x.val b) }

/-- `FB[i] <- 0` for every i (41_display.md R91). -/
def State.clearCells (s : State) : State := { s with fb := clearedFb }

/-- `FB[i]` by its row-major index, i = x + y*64 (R20). -/
def State.fbCell (s : State) (i : Fin 2048) : Bool :=
  s.getCell (Fin.ofNat Config.fbWidth (i.val % Config.fbWidth)) (Fin.ofNat Config.fbHeight (i.val / Config.fbWidth))

/-! ### Key latch (R21) -/

/-- `KEY[k] = 1`. -/
def State.pressed (s : State) (k : Key) : Bool := s.key[k.val]

/-- `KEY[k] <- b`; only the host does this (R21, R35). -/
def State.setKey (s : State) (k : Key) (b : Bool) : State := { s with key := s.key.set k.val b }

/-! ### Random input (R33) -/

/-- Put a byte on the RND input. -/
def State.setRnd (s : State) (b : Byte) : State := { s with rnd := b }

/-- After a draw another byte stands on RND, and nothing is known of it (R33; free value, log 1). -/
def State.refreshRnd (s : State) : State :=
  { s with rnd := Config.rndByte (s.rndDraws + 1), rndDraws := s.rndDraws + 1 }

/-! ### The phases of a cycle (40_cycle.md R80) -/

/-- The word at PC, the byte at PC being the high byte (R81; 20_memory.md R43). -/
def State.fetchWord (s : State) : Word := wordOfBytes (s.memRead s.pc.toNat) (s.memRead (s.pc.toNat + 1))

/-- `OPCODE <- w`. -/
def State.setOpcode (s : State) (w : Word) : State := { s with opcode := w }

/-- `ERR <- e`. -/
def State.setErr (s : State) (e : Err) : State := { s with err := e }

/-- Phase 1 and the start of phase 3: the fetch latches the word at PC, and ERR starts as None (R80, R81). -/
def State.beginCycle (s : State) : State := (s.setOpcode s.fetchWord).setErr .none

/-- `raise E(info)` (60_exceptions.md R172): ERR reports it and nothing else of the core changes; the phase ends with it.
The model also sets the fault bit, which nothing clears (R173, decision D18; log 17). -/
def State.raise (s : State) (e : Err) : State := { s with err := e, wentWrong := true }

/-- The return from an error: there is none, since nothing was entered (60_exceptions.md R173). The executor phase of an
unknown word is the raise alone (40_cycle.md R85); PC stays (the spec's decision D12, log 13). -/
def State.unknownOpcode (s : State) : State := s.raise (.unknownOpcode s.opcode)

/-- A timer counts down to 0 and stays there (60_exceptions.md R180). -/
def countDown (t : Byte) : Byte := if t.toNat > 0 then t - 1 else t

/-- The timer driver (R180). -/
def State.tick (s : State) : State :=
  { s with soundEdge := decide (s.st = 1), dt := countDown s.dt, st := countDown s.st }

/-- Phase 4 of a cycle: the tick, in a cycle that reports an error only as `TICK_ON_ERROR` says (40_cycle.md R84; 00_scope.md
R5: "with false DT, ST and SOUND_EDGE are untouched in such a cycle"; the spec's decision D10, logs 11 and 26). -/
def State.endCycle (s : State) : State :=
  match Config.tickOnError with
  | true => s.tick
  | false => if s.err = .none then s.tick else s

/-- The cycle after its executor phase: phase 4 follows a next state. -/
def finishCycle (o : Host.Outcome State Fault Refusal) : Host.Outcome State Fault Refusal :=
  match o with
  | .next s => .next s.endCycle
  | .fault r => .fault r
  | .refused r => .refused r

/-- `s` with the word `w` stored where the next fetch reads, high byte first (R43). -/
def State.placeWord (s : State) (w : Word) : State :=
  (s.memWrite s.pc.toNat (highByte w)).memWrite (s.pc.toNat + 1) (lowByte w)

end Sys2Proof.Machine
end

