-- ==== Sys2Proof/Machine/Flags.lean ====
section
/-! DEFINITION. Every value written to VF as a flag (10_state.md R14; 44_alu.md R120), from operands taken as unsigned
numbers, and the order in which a flag and a value are written. -/

namespace Sys2Proof.Machine

/-- A condition as a flag byte, 1 or 0. -/
def flagByte (c : Bool) : Byte := if c then 1 else 0

/-- 8XY4: 1 if the exact sum is above 255 (R127). -/
def carryFlag (a b : Byte) : Byte := flagByte (decide (a.toNat + b.toNat > 255))

/-- 8XY5, 8XY7: 1 if there is NO borrow in `minuend - subtrahend` (R128, R130). -/
def noBorrowFlag (minuend subtrahend : Byte) : Byte := flagByte (decide (minuend.toNat ≥ subtrahend.toNat))

/-- 8XY6: the bit shifted out to the right (R129). -/
def lowBitFlag (a : Byte) : Byte := a &&& 1

/-- 8XYE: the bit shifted out to the left (R131). -/
def highBitFlag (a : Byte) : Byte := (a >>> 7) &&& 1

/-- FX1E: 1 if the exact sum leaves the 12-bit range (45_index_memory.md R142). -/
def indexOverflowFlag (a : Byte) (i : Word) : Byte := flagByte (decide (a.toNat + i.toNat > 0xFFF))

/-- `V[0xF] <- flag; V[x] <- value; PC <- PC + 2`, the second statement reading the registers as the first left them
(00_scope.md R8; 44_alu.md R120; 10_state.md R12; the spec's decision D9: DESIGN CHOICE, log 10). `flag` and `value` are
computed from the state each statement sees. -/
def State.flagThenValue (s : State) (flag : Byte) (x : Reg) (value : State → Byte) : State :=
  let flagged := s.setV Reg.F flag
  (flagged.setV x (value flagged)).advance

end Sys2Proof.Machine
end

