-- ==== Sys2Proof/Machine/Operands.lean ====
section
/-! DEFINITION. Every operand form (30_encoding.md R62; 45_index_memory.md R141): widened addresses, the byte at I + k,
runs of registers, glyph addresses, decimal digits, key slots, and the pixels of a sprite. -/

namespace Sys2Proof.Machine

/-- `zext_16(NNN)` (00_scope.md R8). -/
def zextAddr (nnn : Addr) : Word := nnn.setWidth 16

/-- BNNN's target, NNN + V0, not reduced to 12 bits (42_flow.md R104). -/
def jumpTarget (nnn : Addr) (v0 : Byte) : Word := zextAddr nnn + v0.setWidth 16

/-- The address before reduction of the byte at I + k (45_index_memory.md R141; 20_memory.md R47). -/
def State.indexed (s : State) (k : Nat) : Nat := s.i.toNat + k

/-- FX1E's sum, reduced mod 0x1000 (R142). -/
def indexSum (i : Word) (a : Byte) : Word := BitVec.ofNat 16 ((i.toNat + a.toNat) % Config.indexMod)

/-- FX29's glyph address; the byte is not masked (R143; the spec's decision D22: DESIGN CHOICE, log 14). -/
def glyphAddr (a : Byte) : Word := BitVec.ofNat 16 (Config.fontBase + a.toNat * Config.glyphBytes)

/-- FX33's hundreds digit (R144). -/
def hundreds (a : Byte) : Byte := BitVec.ofNat 8 (a.toNat / 100)

/-- FX33's tens digit (R144). -/
def tens (a : Byte) : Byte := BitVec.ofNat 8 (a.toNat / 10 % 10)

/-- FX33's ones digit (R144). -/
def ones (a : Byte) : Byte := BitVec.ofNat 8 (a.toNat % 10)

/-- The register of index `k`, 0 to 15, of a run V0..VX. -/
def regOf (k : Nat) : Reg := Fin.ofNat Config.nRegs k

/-- `MemWrite(I + j, 1, V[j])` for j = 0 to n - 1, rising (R145). -/
def State.storeRun : Nat → State → State
  | 0, s => s
  | n + 1, s =>
    let stored := State.storeRun n s
    stored.memWrite (stored.indexed n) (stored.getV (regOf n))

/-- `V[j] <- MemRead(I + j, 1)` for j = 0 to n - 1, rising (R146). -/
def State.loadRun : Nat → State → State
  | 0, s => s
  | n + 1, s =>
    let loaded := State.loadRun n s
    loaded.setV (regOf n) (loaded.memRead (loaded.indexed n))

/-- The key slot a register value selects, its low nibble (46_keypad.md R150; the spec's decision D5: DESIGN CHOICE, log 6). -/
def keySlot (a : Byte) : Key := Fin.ofNat Config.nKeys a.toNat

/-- EX9E and EXA1 go on as `o` says, unless `KEY_INDEX_POLICY` is refuse and the index is above 15 (00_scope.md R5; the
spec's decision D5, log 26). -/
def guardKey (a : Byte) (o : Host.Outcome State Fault Refusal) : Host.Outcome State Fault Refusal :=
  match Config.keyIndexPolicy with
  | .lowNibble => o
  | .refuse => if a.toNat < Config.nKeys then o else .refused .keyIndexOutOfRange

/-- The key slot of index `k`, 0 to 15, of the scan. -/
def keyOf (k : Nat) : Key := Fin.ofNat Config.nKeys k

/-- The first pressed key among `fuel` slots from `k` up (R153; ascending is the spec's decision D6: DESIGN CHOICE, log 7). -/
def State.firstPressedFrom (s : State) : Nat → Nat → Option Key
  | _, 0 => none
  | k, fuel + 1 => if s.pressed (keyOf k) then some (keyOf k) else s.firstPressedFrom (k + 1) fuel

/-- The first pressed key of the whole latch, if there is one (R153). -/
def State.firstPressed (s : State) : Option Key := s.firstPressedFrom 0 Config.nKeys

/-! ### Sprites (41_display.md R92) -/

/-- The column of a pixel on the screen: (x0 + col) mod 64 (R92; wrapping per pixel is the spec's decision D17, log 27). -/
def pixelX (x0 : Byte) (col : Nat) : Column := Fin.ofNat Config.fbWidth (x0.toNat + col)

/-- The row of a pixel on the screen: (y0 + row) mod 32 (R92; D17, log 27). -/
def pixelY (y0 : Byte) (row : Nat) : Row := Fin.ofNat Config.fbHeight (y0.toNat + row)

/-- The sprite bit of a column, bit 7 being column 0 (R92; the spec's decision D7, from general knowledge: PRESUMED,
log 8). -/
def spriteBit (b : Byte) (col : Nat) : Bool := b.getLsbD (7 - col)

/-- Draw one set pixel: VF <- 1 if it turns a set cell off, then the cell is inverted (R92). -/
def State.drawPixel (s : State) (x : Column) (y : Row) : State :=
  let flagged := if s.getCell x y then s.setV Reg.F 1 else s
  flagged.setCell x y (!flagged.getCell x y)

/-- Columns 0 to `cols` - 1 of one sprite row `b` on screen row `y` (R92). -/
def State.drawCols (b : Byte) (x0 : Byte) (y : Row) : Nat → State → State
  | 0, s => s
  | col + 1, s =>
    let drawn := State.drawCols b x0 y col s
    if spriteBit b col then drawn.drawPixel (pixelX x0 col) y else drawn

/-- Rows 0 to `rows` - 1 of the sprite at I (R92). -/
def State.drawRows (x0 y0 : Byte) : Nat → State → State
  | 0, s => s
  | row + 1, s =>
    let drawn := State.drawRows x0 y0 row s
    State.drawCols (drawn.memRead (drawn.indexed row)) x0 (pixelY y0 row) 8 drawn

end Sys2Proof.Machine
end

