-- ==== Sys2Proof/Machine/Alu.lean ====
section
/-! DEFINITION. Register loads and the arithmetic/logic unit: 6XNN, 7XNN, 8XY0 to 8XYE, CXNN (44_alu.md R120). -/

namespace Sys2Proof.Machine

/-- 6XNN (R121). -/
def execLdImm (x : Reg) (nn : Byte) (s : State) : Host.Outcome State Fault Refusal :=
  .next (s.setV x nn).advance

/-- 7XNN: the sum wraps and VF is not a flag here (R122). -/
def execAddImm (x : Reg) (nn : Byte) (s : State) : Host.Outcome State Fault Refusal :=
  .next (s.setV x (s.getV x + nn)).advance

/-- 8XY0 (R123). -/
def execLdReg (x y : Reg) (s : State) : Host.Outcome State Fault Refusal :=
  .next (s.setV x (s.getV y)).advance

/-- 8XY1 (R124). -/
def execOrReg (x y : Reg) (s : State) : Host.Outcome State Fault Refusal :=
  .next (s.setV x (s.getV x ||| s.getV y)).advance

/-- 8XY2 (R125). -/
def execAndReg (x y : Reg) (s : State) : Host.Outcome State Fault Refusal :=
  .next (s.setV x (s.getV x &&& s.getV y)).advance

/-- 8XY3 (R126). -/
def execXorReg (x y : Reg) (s : State) : Host.Outcome State Fault Refusal :=
  .next (s.setV x (s.getV x ^^^ s.getV y)).advance

/-- 8XY4 (R127). -/
def execAddReg (x y : Reg) (s : State) : Host.Outcome State Fault Refusal :=
  .next (s.flagThenValue (carryFlag (s.getV x) (s.getV y)) x fun t => t.getV x + t.getV y)

/-- 8XY5 (R128). -/
def execSub (x y : Reg) (s : State) : Host.Outcome State Fault Refusal :=
  .next (s.flagThenValue (noBorrowFlag (s.getV x) (s.getV y)) x fun t => t.getV x - t.getV y)

/-- 8XY6: shifts V[X] in place; Y is unused (R129; 30_encoding.md R65). -/
def execShr (x _y : Reg) (s : State) : Host.Outcome State Fault Refusal :=
  .next (s.flagThenValue (lowBitFlag (s.getV x)) x fun t => t.getV x >>> 1)

/-- 8XY7 (R130). -/
def execSubn (x y : Reg) (s : State) : Host.Outcome State Fault Refusal :=
  .next (s.flagThenValue (noBorrowFlag (s.getV y) (s.getV x)) x fun t => t.getV y - t.getV x)

/-- 8XYE: shifts V[X] in place; Y is unused (R131; 30_encoding.md R65). -/
def execShl (x _y : Reg) (s : State) : Host.Outcome State Fault Refusal :=
  .next (s.flagThenValue (highBitFlag (s.getV x)) x fun t => t.getV x <<< 1)

/-- CXNN: the byte on RND, ANDed with NN; the draw uses that byte up (R132; 10_state.md R33; free value, log 1). -/
def execRnd (x : Reg) (nn : Byte) (s : State) : Host.Outcome State Fault Refusal :=
  .next (s.setV x (s.rnd &&& nn)).refreshRnd.advance

end Sys2Proof.Machine
end

