-- ==== Sys2Proof/Machine/Display.lean ====
section
/-! DEFINITION. The display instructions 00E0 and DXYN (41_display.md). -/

namespace Sys2Proof.Machine

/-- 00E0: every cell 0 (R91). -/
def execCls (s : State) : Host.Outcome State Fault Refusal :=
  .next s.clearCells.advance

/-- DXYN: V[X] and V[Y] are read once, before VF is cleared (the spec's decision D8: DESIGN CHOICE, log 9); then N rows are
XORed in, VF recording a collision (R92). I and MEM are unchanged (45_index_memory.md R147). -/
def execDrw (x y : Reg) (n : Nat) (s : State) : Host.Outcome State Fault Refusal :=
  guardAccess (s.indexed 0) n <| .next (State.drawRows (s.getV x) (s.getV y) n (s.setV Reg.F 0)).advance

end Sys2Proof.Machine
end

