-- ==== Sys2Proof/Machine/Flow.lean ====
section
/-! DEFINITION. Control transfer: 00EE, 1NNN, 2NNN, BNNN (42_flow.md). No target is checked (R100). -/

namespace Sys2Proof.Machine

/-- 00EE: SP goes down if it is above 0, then PC <- STACK[SP] + 2 (R101). An empty stack is no error (60_exceptions.md R175). -/
def execRet (s : State) : Host.Outcome State Fault Refusal :=
  let popped := s.popSp
  .next (popped.setPc (popped.stackRead popped.spSlot + Config.insnBytes))

/-- 1NNN: PC <- NNN (R102). -/
def execJp (nnn : Addr) (s : State) : Host.Outcome State Fault Refusal :=
  .next (s.setPc (zextAddr nnn))

/-- 2NNN: with SP = 16 it raises StackOverflow and nothing is written; else the address of this 2NNN itself is pushed and
PC <- NNN (R103; 60_exceptions.md R174). -/
def execCall (nnn : Addr) (s : State) : Host.Outcome State Fault Refusal :=
  if s.sp.val = Config.stackDepth then .next (s.raise .stackOverflow)
  else .next ((s.push s.pc).setPc (zextAddr nnn))

/-- BNNN: PC <- NNN + V0 (R104). -/
def execJpV0 (nnn : Addr) (s : State) : Host.Outcome State Fault Refusal :=
  .next (s.setPc (jumpTarget nnn (s.getV 0)))

end Sys2Proof.Machine
end

