-- ==== Sys2Proof/Machine/IndexMem.lean ====
section
/-! DEFINITION. The index register and memory instructions: ANNN, FX1E, FX29, FX33, FX55, FX65 (45_index_memory.md R141). Loads and
stores leave I alone (R147). -/

namespace Sys2Proof.Machine

/-- ANNN (R140). -/
def execLdI (nnn : Addr) (s : State) : Host.Outcome State Fault Refusal :=
  .next (s.setI (zextAddr nnn)).advance

/-- FX1E: VF <- overflow first, then I <- (I + V[X]) mod 0x1000 with the V[X] it now sees (R142; log 10). -/
def execAddI (x : Reg) (s : State) : Host.Outcome State Fault Refusal :=
  let flagged := s.setV Reg.F (indexOverflowFlag (s.getV x) s.i)
  .next (flagged.setI (indexSum flagged.i (flagged.getV x))).advance

/-- FX29 (R143). -/
def execLdF (x : Reg) (s : State) : Host.Outcome State Fault Refusal :=
  .next (s.setI (glyphAddr (s.getV x))).advance

/-- FX33: hundreds, tens and ones of V[X] at I, I+1, I+2 (R144). -/
def execLdB (x : Reg) (s : State) : Host.Outcome State Fault Refusal :=
  let s1 := s.memWrite (s.indexed 0) (hundreds (s.getV x))
  let s2 := s1.memWrite (s1.indexed 1) (tens (s1.getV x))
  let s3 := s2.memWrite (s2.indexed 2) (ones (s2.getV x))
  guardAccess (s.indexed 0) 3 (.next s3.advance)

/-- FX55: V0..VX stored from I up, X + 1 bytes (R145). -/
def execStRegs (x : Reg) (s : State) : Host.Outcome State Fault Refusal :=
  guardAccess (s.indexed 0) (x.val + 1) (.next (State.storeRun (x.val + 1) s).advance)

/-- FX65: V0..VX loaded from I up, X + 1 bytes (R146). -/
def execLdRegs (x : Reg) (s : State) : Host.Outcome State Fault Refusal :=
  guardAccess (s.indexed 0) (x.val + 1) (.next (State.loadRun (x.val + 1) s).advance)

end Sys2Proof.Machine
end

