-- ==== Sys2Proof/Machine/Keypad.lean ====
section
/-! DEFINITION. The keypad instructions EX9E, EXA1, FX0A (46_keypad.md R150): they sample the level of the latch. -/

namespace Sys2Proof.Machine

/-- EX9E (R151). -/
def execSkp (x : Reg) (s : State) : Host.Outcome State Fault Refusal :=
  guardKey (s.getV x) (.next (s.skipIf (s.pressed (keySlot (s.getV x)))))

/-- EXA1 (R152). -/
def execSknp (x : Reg) (s : State) : Host.Outcome State Fault Refusal :=
  guardKey (s.getV x) (.next (s.skipIf (!s.pressed (keySlot (s.getV x)))))

/-- FX0A: the first pressed key goes to V[X]; with none pressed nothing is written and PC keeps its value, so the next
cycle polls again (R153; 40_cycle.md R86). -/
def execLdVxK (x : Reg) (s : State) : Host.Outcome State Fault Refusal :=
  match s.firstPressed with
  | some k => .next (s.setV x (BitVec.ofNat 8 k.val)).advance
  | none => .next s

end Sys2Proof.Machine
end

