-- ==== Sys2Proof/Machine/Step.lean ====
section
/-! DEFINITION. The cycle (40_cycle.md R80): fetch, decode, execute, tick. One STEP of the host runs exactly one. -/

namespace Sys2Proof.Machine

/-- One cycle: the word at PC is latched in OPCODE and decoded; the instruction's meaning runs, or the word is reported
as unknown (R85); then the timers tick, in every cycle (R84). The two addresses of the fetch fall under `OOB_POLICY` (00_scope.md R5). -/
def step (s : State) : Host.Outcome State Fault Refusal :=
  let fetched := s.beginCycle
  guardAccess s.pc.toNat 2 <|
    match decode fetched.opcode with
    | .ok i => finishCycle (exec i fetched)
    | .error _ => finishCycle (.next fetched.unknownOpcode)

/-- `s` with an instruction of spec/opcode_table.json (`nbits` bits, value `w`) stored where `step` fetches next. It
stands for a LOAD of that instruction (70_reset_and_hazards.md R203; log 19). -/
def State.withFetchWord (s : State) (nbits w : Nat) : State := s.placeWord (BitVec.ofNat 16 (w % 2 ^ nbits))

end Sys2Proof.Machine
end

