-- ==== Sys2Proof/Machine/HostOps.lean ====
section
/-! DEFINITION. What the host may do to the core between cycles (10_state.md R35; 60_exceptions.md R185 to R187), and a
session of host operations and cycles. -/

namespace Sys2Proof.Machine

/-- A host operation other than STEP (R35). -/
inductive HostOp where
  /-- RESET (70_reset_and_hazards.md R200). -/
  | reset
  /-- LOAD(buffer) (R203). -/
  | load (image : List Byte)
  /-- KEY_SET(k, b) (R35). -/
  | keySet (k : Key) (b : Bool)
  /-- The host puts a byte on the RND input (R33, R187). -/
  | supplyRnd (b : Byte)
  deriving DecidableEq, Repr

/-- The one error of a host operation, the load-size error (60_exceptions.md R170; R203). -/
inductive LoadError where
  /-- The image is longer than 3584 bytes. -/
  | loadSize
  deriving DecidableEq, Repr

/-- RESET from any state (R200): nothing of the core survives. The RND input is the host's and keeps its byte and its
draws (10_state.md R26, R33; DESIGN CHOICE, log 28), and the fault bit is never cleared (60_exceptions.md R173). -/
def hostReset (s : State) : State :=
  { State.reset with wentWrong := s.wentWrong, rnd := s.rnd, rndDraws := s.rndDraws }

/-- `MEM[base + j] <- image[j]` for every byte of the image, rising. -/
def State.storeImage (base : Nat) : List Byte → State → State
  | [], s => s
  | b :: rest, s => State.storeImage (base + 1) rest (s.memWrite base b)

/-- LOAD (R203): an image above 3584 bytes is rejected before anything changes (the spec's decision D16, log 15); else
RESET, then the image from 0x200 up. -/
def hostLoad (image : List Byte) (s : State) : Except LoadError State :=
  if image.length > Config.progMax then .error .loadSize
  else .ok (State.storeImage Config.progBase image (hostReset s))

/-- A host operation (R35): a next state, or the load-size error, which leaves the core in its previous state. -/
def applyHostOp (op : HostOp) (s : State) : Except LoadError State :=
  match op with
  | .reset => .ok (hostReset s)
  | .load image => hostLoad image s
  | .keySet k b => .ok (s.setKey k b)
  | .supplyRnd b => .ok (s.setRnd b)

/-- FB as the host reads it, one byte 0x00 or 0x01 per cell (10_state.md R20, R34; the spec's decision D21, log 22). -/
def State.fbByte (s : State) (i : Fin 2048) : Byte := if s.fbCell i then 1 else 0

/-- The number of an ERR output (60_exceptions.md R170). -/
def Err.code : Err → Nat
  | .none => 0
  | .unknownOpcode _ => 1
  | .stackOverflow => 2

/-- One entry of a session: a host operation or STEP (R35). They never overlap (60_exceptions.md R186). -/
inductive Event where
  /-- A host operation. -/
  | host (op : HostOp)
  /-- STEP: one cycle. -/
  | cycle
  deriving DecidableEq, Repr

/-- A session from a state, in the order of the list; a rejected LOAD changes nothing (R203). -/
def runEvents : List Event → State → Host.Outcome State Fault Refusal
  | [], s => .next s
  | .host op :: rest, s =>
    match applyHostOp op s with
    | .ok t => runEvents rest t
    | .error _ => runEvents rest s
  | .cycle :: rest, s =>
    match step s with
    | .next t => runEvents rest t
    | .fault r => .fault r
    | .refused r => .refused r

end Sys2Proof.Machine
end

