-- ==== Sys2Proof/Safety.lean ====
section
/-! DEFINITION. The terms claims are stated in: which part of a state an instruction changes, the invariant of the
machine, and what counts as a run gone wrong, a stopped program and an in-bounds PC. -/

namespace Sys2Proof.Machine

/-- The parts of State, one name per field. -/
inductive Item where
  | mem | v | i | pc | sp | stack | dt | st | fb | key | opcode | err | soundEdge | wentWrong | rnd | rndDraws
  deriving DecidableEq, Repr

/-- Two states agree on a part. MEM is compared through the read of one byte, V and FB through their accessors. -/
def AgreeOn (part : Item) (s t : State) : Prop :=
  match part with
  | .mem => ∀ a, t.memRead a = s.memRead a
  | .v => ∀ r, t.getV r = s.getV r
  | .i => t.i = s.i
  | .pc => t.pc = s.pc
  | .sp => t.sp = s.sp
  | .stack => ∀ k, t.stackRead k = s.stackRead k
  | .dt => t.dt = s.dt
  | .st => t.st = s.st
  | .fb => ∀ x y, t.getCell x y = s.getCell x y
  | .key => ∀ k, t.pressed k = s.pressed k
  | .opcode => t.opcode = s.opcode
  | .err => t.err = s.err
  | .soundEdge => t.soundEdge = s.soundEdge
  | .wentWrong => t.wentWrong = s.wentWrong
  | .rnd => t.rnd = s.rnd
  | .rndDraws => t.rndDraws = s.rndDraws

/-- The frame: from `s` to `t` nothing changes but the listed parts. -/
def OnlyChanges (parts : List Item) (s t : State) : Prop := ∀ part, part ∉ parts → AgreeOn part s t

/-- Among the general registers nothing changes but the listed ones. -/
def OnlyWritesV (regs : List Reg) (s t : State) : Prop := ∀ r, r ∉ regs → t.getV r = s.getV r

/-- Every word whose fixed bits are those of an opcode row decodes to the instruction the row reads from it
(30_encoding.md R64): the "Encoding" line of an instruction's rule. -/
def Encodes (mask value : Word) (instr : Word → Instr) : Prop := ∀ w : Word, w &&& mask = value → decode w = .ok (instr w)

/-- What RESET leaves (70_reset_and_hazards.md R200), part by part. -/
structure AfterReset (t : State) : Prop where
  pc : t.pc = 0x200
  opcode : t.opcode = 0
  i : t.i = 0
  sp : t.sp.val = 0
  dt : t.dt = 0
  st : t.st = 0
  font : ∀ a, a < 80 → some (t.memRead a) = Config.font[a]?
  zero : ∀ a, 80 ≤ a → a < 4096 → t.memRead a = 0
  v : ∀ r, t.getV r = 0
  stack : ∀ k, t.stackRead k = 0
  fb : ∀ x y, t.getCell x y = false
  key : ∀ k, t.pressed k = false
  err : t.err = .none
  soundEdge : t.soundEdge = false

/-- The instructions that write VF as a flag: the table of 10_state.md R14. -/
def writesFlag : Instr → Bool
  | .addReg _ _ | .sub _ _ | .shr _ _ | .subn _ _ | .shl _ _ | .drw _ _ _ | .addI _ => true
  | .cls | .ret | .jp _ | .call _ | .seImm _ _ | .sneImm _ _ | .seReg _ _ | .sneReg _ _ | .ldImm _ _ | .addImm _ _
  | .ldReg _ _ | .orReg _ _ | .andReg _ _ | .xorReg _ _ | .ldI _ | .jpV0 _ | .rnd _ _ | .skp _ | .sknp _ | .ldVxDt _
  | .ldVxK _ | .ldDtVx _ | .ldStVx _ | .ldF _ | .ldB _ | .stRegs _ | .ldRegs _ => false

/-- The registers an instruction writes as its destination: V[X] for the writers of `V` in 10_state.md R10, and V0 to VX
for FX65 (45_index_memory.md R146). -/
def writesV (r : Reg) : Instr → Bool
  | .ldImm x _ | .addImm x _ | .ldReg x _ | .orReg x _ | .andReg x _ | .xorReg x _ | .addReg x _ | .sub x _ | .shr x _
  | .subn x _ | .shl x _ | .rnd x _ | .ldVxDt x | .ldVxK x => decide (r = x)
  | .ldRegs x => decide (r ≤ x)
  | .cls | .ret | .jp _ | .call _ | .seImm _ _ | .sneImm _ _ | .seReg _ _ | .sneReg _ _ | .ldI _ | .jpV0 _ | .drw _ _ _
  | .skp _ | .sknp _ | .ldDtVx _ | .ldStVx _ | .addI _ | .ldF _ | .ldB _ | .stRegs _ => false

/-- The parts an instruction may write, from the column "written by" of 10_state.md R10; ERR is the overflow of 2NNN
(60_exceptions.md R174), and the random input is used up by CXNN (log 1). -/
def mayWrite : Instr → List Item
  | .cls => [.pc, .fb]
  | .drw _ _ _ => [.pc, .fb, .v]
  | .ret => [.pc, .sp]
  | .call _ => [.pc, .sp, .stack, .err, .wentWrong]
  | .jp _ | .jpV0 _ | .seImm _ _ | .sneImm _ _ | .seReg _ _ | .sneReg _ _ | .skp _ | .sknp _ => [.pc]
  | .ldImm _ _ | .addImm _ _ | .ldReg _ _ | .orReg _ _ | .andReg _ _ | .xorReg _ _ | .addReg _ _ | .sub _ _ | .shr _ _
  | .subn _ _ | .shl _ _ | .ldVxDt _ | .ldVxK _ | .ldRegs _ => [.pc, .v]
  | .rnd _ _ => [.pc, .v, .rnd, .rndDraws]
  | .ldI _ | .ldF _ => [.pc, .i]
  | .addI _ => [.pc, .i, .v]
  | .ldB _ | .stRegs _ => [.pc, .mem]
  | .ldDtVx _ => [.pc, .dt]
  | .ldStVx _ => [.pc, .st]

/-- The sprite of `n` rows at I, drawn at (x0, y0), has a set bit on the cell (p, q): its row `row` is the byte at
I + row and bit 7 - col of it falls on ((x0 + col) mod 64, (y0 + row) mod 32) (41_display.md R92). -/
def State.spriteCovers (s : State) (x0 y0 : Byte) (n : Nat) (p : Fin 64) (q : Fin 32) : Prop :=
  ∃ row, row < n ∧ ∃ col, col < 8 ∧ spriteBit (s.memRead (s.indexed row)) col = true ∧
    p = pixelX x0 col ∧ q = pixelY y0 row

/-- The invariant of the machine: MEM in its canonical form (log 18) and I within 0..0xFFF (10_state.md R15). SP within
0..16 (R18) and cells of one bit (R20) hold by the types of State. -/
def MachineInv (s : State) : Prop := Memory.wf s.mem = true ∧ s.i.toNat ≤ 0xFFF

/-- No cycle reported an error, not even before a RESET or LOAD of the host (60_exceptions.md R173: a cycle with ERR other
than None is "gone wrong" for the purpose of safety claims, "fault bit set and never cleared"). -/
def State.safe (s : State) : Bool := !s.wentWrong

/-- "PC always points at an even, in-bounds address" (10_state.md R17), an obligation on programs, never assumed of the
step. The range from 0x200 is 92_eei_decisions.md D4's. -/
def State.programPc (s : State) : Bool :=
  decide (s.pc.toNat % 2 = 0) && decide (Config.progBase ≤ s.pc.toNat) && decide (s.pc.toNat ≤ 0xFFE)

/-- STOPPED: the word at PC = p is `JP p`, p ≤ 0xFFE (70_reset_and_hazards.md R215; the spec's decision D24, log 25). -/
def State.stopped (s : State) : Bool :=
  decide (s.pc.toNat ≤ 0xFFE) &&
  decide ((s.memRead s.pc.toNat).toNat = 0x10 + s.pc.toNat / 256) &&
  decide ((s.memRead (s.pc.toNat + 1)).toNat = s.pc.toNat % 256)

end Sys2Proof.Machine
end

