-- ==== Sys2Proof/Certificates/Slice0/Obligations.lean ====
section
/-! DEFINITION. The statements for the provers. `OnlyChanges parts s t` is the frame: every part of State not listed is
as before, MEM compared byte by byte at every address. A statement whose docstring names a decision D<n> of
92_eei_decisions.md rests on a choice the spec marks as its own. In every statement two things are the model's choice and
no rule's: that an addition to PC wraps at 65536 (decision D4, log 5), and that an address is reduced mod 4096 (D3, log 4). -/

open Sys2Proof Sys2Proof.Machine

/-! ## Reset, load and the host (70_reset_and_hazards.md, 10_state.md) -/

/-- RESET sets every piece of state, from any state (R200). The zeroes of V, STACK, FB, KEY and of MEM outside the font
are decision D2; the font bytes are the parameter FONT, D14. -/
def Obligations.ResetReinitialisesEveryPart : Prop :=
  AfterReset State.reset ∧ ∀ s : State, AfterReset (hostReset s)

/-- The reset state meets the invariant: I is within 0 to 0xFFF (R15, R200), and MEM is in the canonical form, which is the
model's own (DESIGN CHOICE, log 18). -/
def Obligations.ResetStateMeetsInvariant : Prop := MachineInv State.reset

/-- With no program loaded the first cycle after RESET fetches 0x0000, an unknown opcode, and the machine stays where it
is (R201, decisions D2 and D12). -/
def Obligations.FirstCycleWithoutProgramReportsUnknownOpcode : Prop :=
  ∃ t, step State.reset = .next t ∧ t.opcode = 0 ∧ t.err = .unknownOpcode 0 ∧
    OnlyChanges [.err, .wentWrong] State.reset t

/-- LOAD of an image of at most 3584 bytes resets the core and places byte j at 0x200 + j; every other address reads as
after RESET (R203, decisions D2 and D16). -/
def Obligations.LoadPlacesImageAfterReset : Prop :=
  ∀ (image : List Byte) (s : State), image.length ≤ 3584 →
    ∃ t, hostLoad image s = .ok t ∧
      (∀ j b, image[j]? = some b → t.memRead (0x200 + j) = b) ∧
      (∀ a, a < 4096 → (a < 0x200 ∨ 0x200 + image.length ≤ a) → t.memRead a = (hostReset s).memRead a) ∧
      OnlyChanges [.mem] (hostReset s) t

/-- LOAD of more than 3584 bytes is the load-size error, and in a session the core stays in its previous state (R203,
decision D16). -/
def Obligations.OversizedLoadChangesNothing : Prop :=
  ∀ (image : List Byte) (s : State) (rest : List Event), image.length > 3584 →
    hostLoad image s = .error .loadSize ∧ runEvents (.host (.load image) :: rest) s = runEvents rest s

/-- KEY_SET writes one slot of the key latch and nothing else (R35). -/
def Obligations.KeySetWritesOneSlot : Prop :=
  ∀ (s : State) (k : Fin 16) (b : Bool), ∃ t, applyHostOp (.keySet k b) s = .ok t ∧
    t.pressed k = b ∧ (∀ j, j ≠ k → t.pressed j = s.pressed j) ∧ OnlyChanges [.key] s t

/-- Every session, any host operations and cycles in any order, runs to a next state: no cycle stops the machine (R86,
R170, R187). -/
def Obligations.EverySessionRuns : Prop :=
  ∀ (events : List Event) (s : State), ∃ t, runEvents events s = .next t

/-! ## The cycle (40_cycle.md) -/

/-- From every state a cycle gives a next state, whose OPCODE is the two bytes at PC and PC + 1, the byte at PC the high
one (R43; R86). That OPCODE still holds it when the cycle has ended is decision D20 (R22, log 16), and that the two
addresses are reduced mod 4096 is D3 (log 4). -/
def Obligations.CycleAlwaysRunsAndLatchesTheFetchedWord : Prop :=
  ∀ s : State, ∃ t, step s = .next t ∧
    t.opcode.toNat = (s.memRead s.pc.toNat).toNat * 256 + (s.memRead (s.pc.toNat + 1)).toNat

/-- When the word at PC decodes to `i`, the step is `exec i` on the state whose OPCODE is that word and whose ERR is None,
followed by the timer tick (R80, R83, R84). That the tick also follows a 2NNN that overflows and an FX0A that waits is
decision D10 (log 11). -/
def Obligations.StepRunsTheDecodedInstruction : Prop :=
  ∀ (s : State) (i : Instr), decode s.fetchWord = .ok i →
    s.beginCycle.opcode = s.fetchWord ∧ s.beginCycle.err = .none ∧ OnlyChanges [.opcode, .err] s s.beginCycle ∧
    ∃ t : State, exec i s.beginCycle = .next t ∧ step s = .next t.tick

/-- A cycle at an unknown word reports it, leaves PC and everything else of the core alone, and ticks the timers (R85;
decisions D10 and D12). -/
def Obligations.UnknownWordIsReportedAndPcStays : Prop :=
  ∀ (s : State) (why : UnknownWord), decode s.fetchWord = .error why →
    ∃ t, step s = .next t ∧ t.err = .unknownOpcode s.fetchWord ∧ t.opcode = s.fetchWord ∧ t.wentWrong = true ∧
      t.dt.toNat = s.dt.toNat - 1 ∧ t.st.toNat = s.st.toNat - 1 ∧ (t.soundEdge = true ↔ s.st = 1) ∧
      OnlyChanges [.opcode, .err, .wentWrong, .dt, .st, .soundEdge] s t

/-- Every cycle ends with the tick of the state `u` that its executor phase left: the next state of the decoded
instruction, or the state that reports the unknown word. The tick counts both timers down to 0 and raises SOUND_EDGE
exactly when it takes ST from 1 to 0, and changes nothing else (60_exceptions.md R180). That it runs in error cycles and in
a waiting FX0A too is decision D10 (log 11). -/
def Obligations.EveryCycleEndsWithTheTick : Prop :=
  (∀ s : State, ∃ u : State,
    (∀ i, decode s.fetchWord = .ok i → exec i s.beginCycle = .next u) ∧
    (∀ why, decode s.fetchWord = .error why → u = s.beginCycle.unknownOpcode) ∧
    step s = .next u.tick) ∧
  ∀ u : State, u.tick.dt.toNat = u.dt.toNat - 1 ∧ u.tick.st.toNat = u.st.toNat - 1 ∧
    (u.tick.soundEdge = true ↔ u.st.toNat = 1) ∧ OnlyChanges [.dt, .st, .soundEdge] u u.tick

/-- A timer loaded in a cycle is ticked in that same cycle, and FX07 reads the timer before the tick (47_timers.md R160;
decision D10). -/
def Obligations.LoadedTimerIsTickedInTheSameCycle : Prop :=
  ∀ (s : State) (x : Reg),
    (decode s.fetchWord = .ok (.ldDtVx x) → ∃ t, step s = .next t ∧ t.dt.toNat = (s.getV x).toNat - 1) ∧
    (decode s.fetchWord = .ok (.ldStVx x) → ∃ t, step s = .next t ∧ t.st.toNat = (s.getV x).toNat - 1 ∧
      (t.soundEdge = true ↔ (s.getV x).toNat = 1)) ∧
    (decode s.fetchWord = .ok (.ldVxDt x) → ∃ t, step s = .next t ∧ t.getV x = s.dt ∧ t.dt.toNat = s.dt.toNat - 1)

/-! ## Encoding (30_encoding.md) -/

/-- The two-level dispatch is the opcode map: a word with a row's fixed bits decodes to that row's instruction, two rows
never share a word, and a word of no row is unknown (R63, R64, R66; decision D11). -/
def Obligations.DispatchIsTheOpcodeMap : Prop :=
  opcodeRows.length = 34 ∧
  (∀ row ∈ opcodeRows, Encodes row.mask row.value row.instr) ∧
  (∀ w : Word, (∀ row ∈ opcodeRows, w &&& row.mask ≠ row.value) → ∃ why, decode w = .error why) ∧
  opcodeRows.Pairwise fun r q => ∀ w : Word, ¬ (w &&& r.mask = r.value ∧ w &&& q.mask = q.value)

/-- Decoding the canonical word of a well-formed instruction gives it back, every operand at every value (R61, R69). -/
def Obligations.DecodeOfEncodeIsTheInstruction : Prop :=
  ∀ i : Instr, i.wellFormed = true → decode (encode i) = .ok i

/-- A word that decodes is the canonical word of its instruction but for the ignored bits, which are 11:8 of 00E0 and
00EE and 3:0 of 5XY0 and 9XY0 (R65; decision D11). -/
def Obligations.DecodedWordIsCanonicalUpToIgnoredBits : Prop :=
  ∀ (w : Word) (i : Instr), decode w = .ok i → i.wellFormed = true ∧
    (topNibble w = 0x0 → encode i = w &&& 0xF0FF) ∧
    (topNibble w = 0x5 ∨ topNibble w = 0x9 → encode i = w &&& 0xFFF0) ∧
    (topNibble w ≠ 0x0 → topNibble w ≠ 0x5 → topNibble w ≠ 0x9 → encode i = w)

/-- Words written out from the spec's encodings decode to what they stand for (R64, and the vectors of
95_test_vectors.md section 2.1; the alias 0x5127 and the unknown words rest on decision D11). -/
def Obligations.SampleWordsDecodeAsTheSpecSays : Prop :=
  decode 0b0000000011100000 = .ok .cls ∧ decode 0b0001101010111100 = .ok (.jp 0xABC) ∧
  decode 0b0101000100100111 = .ok (.seReg 1 2) ∧ decode 0b0111101000101111 = .ok (.addImm 0xA 0x2F) ∧
  decode 0b1000000100101110 = .ok (.shl 1 2) ∧ decode 0b1010001011110000 = .ok (.ldI 0x2F0) ∧
  decode 0b1101000000010101 = .ok (.drw 0 1 5) ∧ decode 0b1110000110100001 = .ok (.sknp 1) ∧
  decode 0b1111000101010101 = .ok (.stRegs 1) ∧ decode 0b1000000100101000 = .error .family8 ∧
  decode 0b1110000100001110 = .error .familyE ∧ decode 0b0000000100100011 = .error .family0

/-! ## Display (41_display.md) -/

/-- 00E0 clears every cell, moves PC on and touches nothing else (R91). The wrap of PC + 2 is decision D4
(log 5), the ignored bits 11:8 of the word are D11 (log 12). -/
def Obligations.ClsClearsTheFrameBuffer : Prop :=
  Encodes 0xF0FF 0x00E0 (fun _ => .cls) ∧
  ∀ s : State, ∃ t, exec .cls s = .next t ∧ (∀ x y, t.getCell x y = false) ∧ t.pc = s.pc + 2 ∧
    OnlyChanges [.fb, .pc] s t

/-- DXYN inverts exactly the cells its N rows cover at (V[X], V[Y]) as they were before the instruction, VF becomes 1 if a
covered cell was set and else 0, and nothing but FB, VF and PC changes (R92; decisions D3, D7, D8, D17). -/
def Obligations.DrwInvertsTheCoveredCells : Prop :=
  ∀ (s : State) (x y : Reg) (n : Nat), Instr.wellFormed (.drw x y n) = true →
    ∃ t, exec (.drw x y n) s = .next t ∧
      (∀ p q, s.spriteCovers (s.getV x) (s.getV y) n p q → t.getCell p q = !s.getCell p q) ∧
      (∀ p q, ¬ s.spriteCovers (s.getV x) (s.getV y) n p q → t.getCell p q = s.getCell p q) ∧
      ((∃ p q, s.spriteCovers (s.getV x) (s.getV y) n p q ∧ s.getCell p q = true) → t.getV Reg.F = 1) ∧
      ((¬ ∃ p q, s.spriteCovers (s.getV x) (s.getV y) n p q ∧ s.getCell p q = true) → t.getV Reg.F = 0) ∧
      OnlyWritesV [Reg.F] s t ∧ t.pc = s.pc + 2 ∧ OnlyChanges [.fb, .v, .pc] s t

/-- The double-draw law: drawn again with the same origin, I, N and sprite bytes, a sprite restores FB, and the second
draw reports a collision exactly when a covered cell was 0 before the first (R93, derived by the spec from R92). -/
def Obligations.SecondDrawRestoresTheFrameBuffer : Prop :=
  ∀ (s t u : State) (x y : Reg) (n : Nat), Instr.wellFormed (.drw x y n) = true →
    exec (.drw x y n) s = .next t →
    u.getV x = s.getV x → u.getV y = s.getV y → u.i = s.i → AgreeOn .mem s u → AgreeOn .fb t u →
    ∃ w, exec (.drw x y n) u = .next w ∧ AgreeOn .fb s w ∧
      ((∃ p q, s.spriteCovers (s.getV x) (s.getV y) n p q ∧ s.getCell p q = false) → w.getV Reg.F = 1) ∧
      ((¬ ∃ p q, s.spriteCovers (s.getV x) (s.getV y) n p q ∧ s.getCell p q = false) → w.getV Reg.F = 0)

/-! ## Control transfer (42_flow.md) -/

/-- 00EE takes SP down by 1, or leaves it at 0, and sets PC to the slot SP then names plus 2 (R101). The wrap of that sum
is decision D4 (log 5), the ignored bits 11:8 of the word are D11 (log 12). -/
def Obligations.RetReturnsToTheSavedAddressPlusTwo : Prop :=
  Encodes 0xF0FF 0x00EE (fun _ => .ret) ∧
  ∀ s : State, ∃ t, exec .ret s = .next t ∧ t.sp.val = s.sp.val - 1 ∧
    (∀ k : Fin 16, k.val = s.sp.val - 1 → t.pc = s.stackRead k + 2) ∧ OnlyChanges [.sp, .pc] s t

/-- 1NNN sets PC to NNN and BNNN to NNN + V0, not reduced to 12 bits; they write nothing else (R102, R104). -/
def Obligations.JumpsSetPc : Prop :=
  Encodes 0xF000 0x1000 (fun w => .jp (fieldNNN w)) ∧ Encodes 0xF000 0xB000 (fun w => .jpV0 (fieldNNN w)) ∧
  ∀ (s : State) (nnn : Addr),
    (∃ t, exec (.jp nnn) s = .next t ∧ t.pc.toNat = nnn.toNat ∧ OnlyChanges [.pc] s t) ∧
    (∃ t, exec (.jpV0 nnn) s = .next t ∧ t.pc.toNat = nnn.toNat + (s.getV 0).toNat ∧ OnlyChanges [.pc] s t)

/-- 2NNN with SP below 16 saves its own address in slot SP, counts SP up and jumps to NNN (R103). -/
def Obligations.CallSavesItsOwnAddress : Prop :=
  Encodes 0xF000 0x2000 (fun w => .call (fieldNNN w)) ∧
  ∀ (s : State) (nnn : Addr), s.sp.val < 16 →
    ∃ t, exec (.call nnn) s = .next t ∧ t.pc.toNat = nnn.toNat ∧ t.sp.val = s.sp.val + 1 ∧
      (∀ k : Fin 16, k.val = s.sp.val → t.stackRead k = s.pc) ∧
      (∀ k : Fin 16, k.val ≠ s.sp.val → t.stackRead k = s.stackRead k) ∧ OnlyChanges [.pc, .sp, .stack] s t

/-- 2NNN with SP = 16 reports StackOverflow and leaves PC, SP, STACK and the rest alone; the cycle still ticks the timers
(R103, R174; the tick in an error cycle is decision D10). The record `wentWrong` is the model's (D18, log 17). -/
def Obligations.CallOnAFullStackOverflows : Prop :=
  ∀ (s : State) (nnn : Addr), s.sp.val = 16 →
    (∃ t, exec (.call nnn) s = .next t ∧ t.err = .stackOverflow ∧ t.wentWrong = true ∧
      OnlyChanges [.err, .wentWrong] s t) ∧
    (decode s.fetchWord = .ok (.call nnn) → ∃ t, step s = .next t ∧ t.err = .stackOverflow ∧ t.pc = s.pc ∧
      t.dt.toNat = s.dt.toNat - 1 ∧ t.st.toNat = s.st.toNat - 1)

/-- 2NNN and then 00EE return PC to the address of the call plus 2 and SP to its value before the call, with one stack
slot left written (R103, round trip of R101 and R103). -/
def Obligations.CallThenRetReturnsBehindTheCall : Prop :=
  ∀ (s : State) (nnn : Addr), s.sp.val < 16 →
    ∃ t u, exec (.call nnn) s = .next t ∧ exec .ret t = .next u ∧ u.pc = s.pc + 2 ∧
      (∀ k : Fin 16, k.val ≠ s.sp.val → u.stackRead k = s.stackRead k) ∧ OnlyChanges [.pc, .stack] s u

/-! ## Skips (43_skip.md) -/

/-- 3XNN and 4XNN add 4 to PC when V[X] = NN, or differs from it, and else 2; they write nothing else (R111, R112).
The wrap of PC is decision D4 (log 5). -/
def Obligations.SkipsOnAnImmediate : Prop :=
  Encodes 0xF000 0x3000 (fun w => .seImm (fieldX w) (fieldNN w)) ∧
  Encodes 0xF000 0x4000 (fun w => .sneImm (fieldX w) (fieldNN w)) ∧
  ∀ (s : State) (x : Reg) (nn : Byte),
    (∃ t, exec (.seImm x nn) s = .next t ∧ (s.getV x = nn → t.pc = s.pc + 4) ∧ (s.getV x ≠ nn → t.pc = s.pc + 2) ∧
      OnlyChanges [.pc] s t) ∧
    (∃ t, exec (.sneImm x nn) s = .next t ∧ (s.getV x ≠ nn → t.pc = s.pc + 4) ∧ (s.getV x = nn → t.pc = s.pc + 2) ∧
      OnlyChanges [.pc] s t)

/-- 5XY0 and 9XY0 add 4 to PC when V[X] and V[Y] are equal, or differ, and else 2; they write nothing else and the low
nibble of their words is not examined (R113, R114; why not is decision D11, log 12). The wrap of PC is D4 (log 5). -/
def Obligations.SkipsOnTwoRegisters : Prop :=
  Encodes 0xF000 0x5000 (fun w => .seReg (fieldX w) (fieldY w)) ∧
  Encodes 0xF000 0x9000 (fun w => .sneReg (fieldX w) (fieldY w)) ∧
  ∀ (s : State) (x y : Reg),
    (∃ t, exec (.seReg x y) s = .next t ∧ (s.getV x = s.getV y → t.pc = s.pc + 4) ∧
      (s.getV x ≠ s.getV y → t.pc = s.pc + 2) ∧ OnlyChanges [.pc] s t) ∧
    (∃ t, exec (.sneReg x y) s = .next t ∧ (s.getV x ≠ s.getV y → t.pc = s.pc + 4) ∧
      (s.getV x = s.getV y → t.pc = s.pc + 2) ∧ OnlyChanges [.pc] s t)

/-! ## Loads and arithmetic (44_alu.md) -/

/-- 6XNN, 7XNN and 8XY0 write V[X] with NN, with (V[X] + NN) mod 256, with V[Y]; no other register, VF included, and
nothing but PC changes (R121, R122, R123). The wrap of PC + 2 is decision D4 (log 5). -/
def Obligations.LoadsAndImmediateAdd : Prop :=
  Encodes 0xF000 0x6000 (fun w => .ldImm (fieldX w) (fieldNN w)) ∧
  Encodes 0xF000 0x7000 (fun w => .addImm (fieldX w) (fieldNN w)) ∧
  Encodes 0xF00F 0x8000 (fun w => .ldReg (fieldX w) (fieldY w)) ∧
  ∀ (s : State) (x y : Reg) (nn : Byte),
    (∃ t, exec (.ldImm x nn) s = .next t ∧ t.getV x = nn ∧ t.pc = s.pc + 2 ∧ OnlyWritesV [x] s t ∧
      OnlyChanges [.v, .pc] s t) ∧
    (∃ t, exec (.addImm x nn) s = .next t ∧ (t.getV x).toNat = ((s.getV x).toNat + nn.toNat) % 256 ∧
      t.pc = s.pc + 2 ∧ OnlyWritesV [x] s t ∧ OnlyChanges [.v, .pc] s t) ∧
    (∃ t, exec (.ldReg x y) s = .next t ∧ t.getV x = s.getV y ∧ t.pc = s.pc + 2 ∧ OnlyWritesV [x] s t ∧
      OnlyChanges [.v, .pc] s t)

/-- 8XY1, 8XY2 and 8XY3 combine V[X] and V[Y] bit by bit into V[X]; VF is not a flag here (R124, R125, R126). The
wrap of PC + 2 is decision D4 (log 5). -/
def Obligations.BitwiseOperations : Prop :=
  Encodes 0xF00F 0x8001 (fun w => .orReg (fieldX w) (fieldY w)) ∧
  Encodes 0xF00F 0x8002 (fun w => .andReg (fieldX w) (fieldY w)) ∧
  Encodes 0xF00F 0x8003 (fun w => .xorReg (fieldX w) (fieldY w)) ∧
  ∀ (s : State) (x y : Reg),
    (∃ t, exec (.orReg x y) s = .next t ∧ t.getV x = s.getV x ||| s.getV y ∧ t.pc = s.pc + 2 ∧
      OnlyWritesV [x] s t ∧ OnlyChanges [.v, .pc] s t) ∧
    (∃ t, exec (.andReg x y) s = .next t ∧ t.getV x = s.getV x &&& s.getV y ∧ t.pc = s.pc + 2 ∧
      OnlyWritesV [x] s t ∧ OnlyChanges [.v, .pc] s t) ∧
    (∃ t, exec (.xorReg x y) s = .next t ∧ t.getV x = s.getV x ^^^ s.getV y ∧ t.pc = s.pc + 2 ∧
      OnlyWritesV [x] s t ∧ OnlyChanges [.v, .pc] s t)

/-- 8XY4, 8XY5 and 8XY7: `c` is the flag of the old operands (carry, or no borrow); V[X] becomes the sum or difference mod
256 of the operands as they read once VF is `c`; and VF is `c` unless X is F. This is every line of the tables of R127,
R128 and R130; the order of flag and value is decision D9. -/
def Obligations.AddAndSubtractWriteTheFlagThenTheValue : Prop :=
  ∀ (s : State) (x y : Reg),
    (∃ t, exec (.addReg x y) s = .next t ∧
      ∃ (c : Byte) (a b : Nat), (c = 1 ∧ (s.getV x).toNat + (s.getV y).toNat > 255 ∨
          c = 0 ∧ (s.getV x).toNat + (s.getV y).toNat ≤ 255) ∧
        a = (if x = Reg.F then c else s.getV x).toNat ∧ b = (if y = Reg.F then c else s.getV y).toNat ∧
        (t.getV x).toNat = (a + b) % 256 ∧ (x ≠ Reg.F → t.getV Reg.F = c) ∧
        t.pc = s.pc + 2 ∧ OnlyWritesV [x, Reg.F] s t ∧ OnlyChanges [.v, .pc] s t) ∧
    (∃ t, exec (.sub x y) s = .next t ∧
      ∃ (c : Byte) (a b : Nat), (c = 1 ∧ (s.getV x).toNat ≥ (s.getV y).toNat ∨
          c = 0 ∧ (s.getV x).toNat < (s.getV y).toNat) ∧
        a = (if x = Reg.F then c else s.getV x).toNat ∧ b = (if y = Reg.F then c else s.getV y).toNat ∧
        ((t.getV x).toNat : Int) = ((a : Int) - b) % 256 ∧ (x ≠ Reg.F → t.getV Reg.F = c) ∧
        t.pc = s.pc + 2 ∧ OnlyWritesV [x, Reg.F] s t ∧ OnlyChanges [.v, .pc] s t) ∧
    (∃ t, exec (.subn x y) s = .next t ∧
      ∃ (c : Byte) (a b : Nat), (c = 1 ∧ (s.getV y).toNat ≥ (s.getV x).toNat ∨
          c = 0 ∧ (s.getV y).toNat < (s.getV x).toNat) ∧
        a = (if x = Reg.F then c else s.getV x).toNat ∧ b = (if y = Reg.F then c else s.getV y).toNat ∧
        ((t.getV x).toNat : Int) = ((b : Int) - a) % 256 ∧ (x ≠ Reg.F → t.getV Reg.F = c) ∧
        t.pc = s.pc + 2 ∧ OnlyWritesV [x, Reg.F] s t ∧ OnlyChanges [.v, .pc] s t)

/-- 8XY6 and 8XYE shift V[X] in place, whatever Y is: VF becomes the bit shifted out and V[X] the half or the double mod
256; with X = F, VF ends as 0, or as twice its old bit 7 (R129, R131; the order of flag and value is decision D9). -/
def Obligations.ShiftsWriteTheFlagThenTheValue : Prop :=
  ∀ (s : State) (x y : Reg),
    (∃ t, exec (.shr x y) s = .next t ∧
      (x ≠ Reg.F → (t.getV x).toNat = (s.getV x).toNat / 2 ∧ (t.getV Reg.F).toNat = (s.getV x).toNat % 2) ∧
      (x = Reg.F → t.getV Reg.F = 0) ∧
      t.pc = s.pc + 2 ∧ OnlyWritesV [x, Reg.F] s t ∧ OnlyChanges [.v, .pc] s t) ∧
    (∃ t, exec (.shl x y) s = .next t ∧
      (x ≠ Reg.F → (t.getV x).toNat = 2 * (s.getV x).toNat % 256 ∧ (t.getV Reg.F).toNat = (s.getV x).toNat / 128) ∧
      (x = Reg.F → (t.getV Reg.F).toNat = 2 * ((s.getV Reg.F).toNat / 128)) ∧
      t.pc = s.pc + 2 ∧ OnlyWritesV [x, Reg.F] s t ∧ OnlyChanges [.v, .pc] s t)

/-- CXNN writes V[X] with the byte on RND, whatever it is, ANDed with NN; no bit outside NN is set and no flag changes
(R132). The fields `rnd` and `rndDraws` are the model's input and may change (log 1). -/
def Obligations.RndMasksTheRandomByte : Prop :=
  Encodes 0xF000 0xC000 (fun w => .rnd (fieldX w) (fieldNN w)) ∧
  ∀ (s : State) (x : Reg) (nn : Byte), ∃ t, exec (.rnd x nn) s = .next t ∧
    t.getV x = s.rnd &&& nn ∧ t.getV x &&& ~~~nn = 0 ∧ t.pc = s.pc + 2 ∧ OnlyWritesV [x] s t ∧
    OnlyChanges [.v, .pc, .rnd, .rndDraws] s t

/-! ## Index register and memory (45_index_memory.md) -/

/-- ANNN loads I with NNN (R140). The wrap of PC + 2 is decision D4 (log 5). -/
def Obligations.LoadIndex : Prop :=
  Encodes 0xF000 0xA000 (fun w => .ldI (fieldNNN w)) ∧
  ∀ (s : State) (nnn : Addr), ∃ t, exec (.ldI nnn) s = .next t ∧ t.i.toNat = nnn.toNat ∧ t.pc = s.pc + 2 ∧
    OnlyChanges [.i, .pc] s t

/-- FX1E: `c` is 1 if the exact sum V[X] + I is above 0xFFF, else 0; VF becomes `c`; then I becomes the sum mod 0x1000 of I
and V[X] as it reads once VF is `c` (R142; the order of flag and value is decision D9). -/
def Obligations.AddToIndexWritesTheFlagThenTheIndex : Prop :=
  ∀ (s : State) (x : Reg), ∃ t, exec (.addI x) s = .next t ∧
    ∃ c : Byte, (c = 1 ∧ (s.getV x).toNat + s.i.toNat > 0xFFF ∨ c = 0 ∧ (s.getV x).toNat + s.i.toNat ≤ 0xFFF) ∧
      t.getV Reg.F = c ∧ t.i.toNat = (s.i.toNat + (if x = Reg.F then c else s.getV x).toNat) % 0x1000 ∧
      t.pc = s.pc + 2 ∧ OnlyWritesV [Reg.F] s t ∧ OnlyChanges [.v, .i, .pc] s t

/-- FX29 sets I to V[X] * 5, the whole byte (R143; not masking is decision D22), and for a digit in the reset image the
five bytes there are its glyph (10_state.md R31, FONT being the parameter of decision D14). -/
def Obligations.LoadGlyphAddress : Prop :=
  ∀ (s : State) (x : Reg), ∃ t, exec (.ldF x) s = .next t ∧ t.i.toNat = (s.getV x).toNat * 5 ∧ t.pc = s.pc + 2 ∧
    OnlyChanges [.i, .pc] s t ∧
    (s.mem = State.reset.mem → (s.getV x).toNat < 16 → ∀ row, row < 5 →
      some (t.memRead (t.i.toNat + row)) = Config.font[5 * (s.getV x).toNat + row]?)

/-- FX33 stores the decimal digits of V[X], hundreds at I, tens at I + 1, ones at I + 2, and every other byte of MEM is as
before (R144; addresses reduce mod 4096 by decision D3). -/
def Obligations.StoreDecimalDigits : Prop :=
  ∀ (s : State) (x : Reg), ∃ t, exec (.ldB x) s = .next t ∧
    (t.memRead (s.indexed 0)).toNat = (s.getV x).toNat / 100 ∧
    (t.memRead (s.indexed 1)).toNat = (s.getV x).toNat / 10 % 10 ∧
    (t.memRead (s.indexed 2)).toNat = (s.getV x).toNat % 10 ∧
    (∀ a, (∀ k, k < 3 → memIndex a ≠ memIndex (s.indexed k)) → t.memRead a = s.memRead a) ∧
    t.pc = s.pc + 2 ∧ OnlyChanges [.mem, .pc] s t

/-- FX55 stores V0 to VX at I to I + X, and every other byte of MEM is as before; I is unchanged (R145, R147; addresses
reduce mod 4096 by decision D3). -/
def Obligations.StoreRegisters : Prop :=
  ∀ (s : State) (x : Reg), ∃ t, exec (.stRegs x) s = .next t ∧
    (∀ r : Reg, r ≤ x → t.memRead (s.indexed r.val) = s.getV r) ∧
    (∀ a, (∀ k, k ≤ x.val → memIndex a ≠ memIndex (s.indexed k)) → t.memRead a = s.memRead a) ∧
    t.pc = s.pc + 2 ∧ OnlyChanges [.mem, .pc] s t

/-- FX65 loads V0 to VX from I to I + X; registers above X, MEM and I are unchanged (R146, R147; addresses reduce mod 4096
by decision D3). -/
def Obligations.LoadRegisters : Prop :=
  ∀ (s : State) (x : Reg), ∃ t, exec (.ldRegs x) s = .next t ∧
    (∀ r : Reg, r ≤ x → t.getV r = s.memRead (s.indexed r.val)) ∧ (∀ r : Reg, x < r → t.getV r = s.getV r) ∧
    t.pc = s.pc + 2 ∧ OnlyChanges [.v, .pc] s t

/-! ## Keypad and timers (46_keypad.md, 47_timers.md) -/

/-- EX9E and EXA1 add 4 to PC when key V[X] mod 16 is pressed, or released, and else 2; they write nothing else (R151,
R152; the low nibble is decision D5). -/
def Obligations.SkipsOnAKey : Prop :=
  ∀ (s : State) (x : Reg) (k : Fin 16), k.val = (s.getV x).toNat % 16 →
    (∃ t, exec (.skp x) s = .next t ∧ (s.pressed k = true → t.pc = s.pc + 4) ∧ (s.pressed k = false → t.pc = s.pc + 2) ∧
      OnlyChanges [.pc] s t) ∧
    (∃ t, exec (.sknp x) s = .next t ∧ (s.pressed k = false → t.pc = s.pc + 4) ∧ (s.pressed k = true → t.pc = s.pc + 2) ∧
      OnlyChanges [.pc] s t)

/-- FX0A with a key pressed writes V[X] with the lowest pressed index and moves on (R153; the lowest is decision D6). -/
def Obligations.KeyWaitTakesTheLowestPressedKey : Prop :=
  ∀ (s : State) (x : Reg) (k : Fin 16), s.pressed k = true → (∀ j, j < k → s.pressed j = false) →
    ∃ t, exec (.ldVxK x) s = .next t ∧ (t.getV x).toNat = k.val ∧ t.pc = s.pc + 2 ∧ OnlyWritesV [x] s t ∧
      OnlyChanges [.v, .pc] s t

/-- FX0A with no key pressed holds: however many cycles run, the same FX0A is fetched again, and only the timers, the
outputs and the OPCODE latch change (R153; the tick in a waiting cycle is decision D10). -/
def Obligations.KeyWaitHoldsWhileNoKeyIsPressed : Prop :=
  ∀ (n : Nat) (s : State) (x : Reg), decode s.fetchWord = .ok (.ldVxK x) → (∀ k, s.pressed k = false) →
    ∃ t, Host.Core.run core n s = .next t ∧ decode t.fetchWord = .ok (.ldVxK x) ∧ t.dt.toNat = s.dt.toNat - n ∧
      OnlyChanges [.opcode, .err, .dt, .st, .soundEdge] s t

/-- FX07, FX15 and FX18 move a byte from DT to V[X], from V[X] to DT and from V[X] to ST; a write raises no SOUND_EDGE of
its own, and the tick of the same cycle counts the written timer down, with an edge exactly when FX18 wrote 1 (R161, R162,
R163). The wrap of PC + 2 is decision D4 (log 5). -/
def Obligations.TimerAccess : Prop :=
  Encodes 0xF0FF 0xF007 (fun w => .ldVxDt (fieldX w)) ∧ Encodes 0xF0FF 0xF015 (fun w => .ldDtVx (fieldX w)) ∧
  Encodes 0xF0FF 0xF018 (fun w => .ldStVx (fieldX w)) ∧
  ∀ (s : State) (x : Reg),
    (∃ t, exec (.ldVxDt x) s = .next t ∧ t.getV x = s.dt ∧ t.tick.dt.toNat = s.dt.toNat - 1 ∧ t.pc = s.pc + 2 ∧
      OnlyWritesV [x] s t ∧ OnlyChanges [.v, .pc] s t) ∧
    (∃ t, exec (.ldDtVx x) s = .next t ∧ t.dt = s.getV x ∧ t.tick.dt.toNat = (s.getV x).toNat - 1 ∧ t.pc = s.pc + 2 ∧
      OnlyChanges [.dt, .pc] s t) ∧
    (∃ t, exec (.ldStVx x) s = .next t ∧ t.st = s.getV x ∧ t.tick.st.toNat = (s.getV x).toNat - 1 ∧
      (t.tick.soundEdge = true ↔ s.getV x = 1) ∧ t.pc = s.pc + 2 ∧ OnlyChanges [.st, .pc] s t)

/-! ## Rules over all instructions -/

/-- The column "written by" of the state table: an instruction changes no part of State it is not listed for, and no
instruction writes the key latch or OPCODE (R10, R21; ERR by R174, the random input by log 1). -/
def Obligations.EveryPartHasOnlyItsWriters : Prop :=
  ∀ (i : Instr) (s t : State), exec i s = .next t → OnlyChanges (mayWrite i) s t

/-- A register other than an instruction's destination keeps its value, and VF too unless the instruction is one of the
seven that write it as a flag (R11, R12, R14). -/
def Obligations.RegistersChangeOnlyAsDestinationOrFlag : Prop :=
  ∀ (i : Instr) (s t : State) (r : Reg), exec i s = .next t → writesV r i = false →
    (r = Reg.F → writesFlag i = false) → t.getV r = s.getV r

/-- ERR reports UnknownOpcode exactly in cycles whose word is unknown, StackOverflow exactly in cycles of a 2NNN with SP =
16, and None in every other (R34, R170, R171, R174, R176; the form of ERR is decision D18). -/
def Obligations.ErrReportsExactlyTheTwoErrors : Prop :=
  ∀ s t : State, step s = .next t →
    (∀ op, t.err = .unknownOpcode op ↔ op = s.fetchWord ∧ ∃ why, decode s.fetchWord = .error why) ∧
    (t.err = .stackOverflow ↔ s.sp.val = 16 ∧ ∃ nnn, decode s.fetchWord = .ok (.call nnn))

/-- The fault bit is set by every cycle that reports an error and by nothing else a cycle does, and never cleared, by no
cycle and by no host operation, RESET and LOAD included (R173, decision D18; the field is the model's, log 17). -/
def Obligations.GoneWrongIsNeverCleared : Prop :=
  (∀ s t : State, step s = .next t → (t.wentWrong = true ↔ s.wentWrong = true ∨ t.err ≠ .none)) ∧
  (∀ (op : HostOp) (s t : State), applyHostOp op s = .ok t → t.wentWrong = s.wentWrong) ∧
  ∀ (events : List Event) (s t : State), runEvents events s = .next t → s.wentWrong = true → t.wentWrong = true

/-- An error repeats: at an unknown word, or at a 2NNN with SP = 16, this cycle and every later one report the same error,
the fault bit `wentWrong` is set (the field is the model's, D18, log 17), and beside it only the timers, the outputs and the
OPCODE latch change (R85, R103, R173; decisions D10 and D12, logs 11 and 13). -/
def Obligations.ErrorsRepeatForever : Prop :=
  ∀ (n : Nat) (s : State),
    ((∃ why, decode s.fetchWord = .error why) → ∃ t, Host.Core.run core (n + 1) s = .next t ∧
      t.err = .unknownOpcode s.fetchWord ∧ t.wentWrong = true ∧ t.dt.toNat = s.dt.toNat - (n + 1) ∧
      OnlyChanges [.opcode, .err, .wentWrong, .dt, .st, .soundEdge] s t) ∧
    ((∃ nnn, decode s.fetchWord = .ok (.call nnn)) → s.sp.val = 16 → ∃ t, Host.Core.run core (n + 1) s = .next t ∧
      t.err = .stackOverflow ∧ t.wentWrong = true ∧ t.dt.toNat = s.dt.toNat - (n + 1) ∧
      OnlyChanges [.opcode, .err, .wentWrong, .dt, .st, .soundEdge] s t)

/-- A STOPPED state stays STOPPED: every further cycle leaves everything unchanged except that the timers count down,
OPCODE holds the jump, ERR is None and SOUND_EDGE may change (R215; STOPPED is decision D24, log 25; that OPCODE holds the
jump after the cycle is D20, log 16). -/
def Obligations.StoppedStaysStopped : Prop :=
  ∀ (n : Nat) (s : State), s.stopped = true → ∃ t, Host.Core.run core n s = .next t ∧ t.stopped = true ∧
    t.dt.toNat = s.dt.toNat - n ∧ t.st.toNat = s.st.toNat - n ∧
    (0 < n → t.opcode = s.fetchWord ∧ t.err = .none) ∧
    OnlyChanges [.opcode, .err, .dt, .st, .soundEdge] s t

/-- The random input matters to CXNN alone: at any other word two states that differ only in it step to states that differ
only in it (R33, R86, decision D13). -/
def Obligations.RandomInputReachesOnlyRnd : Prop :=
  ∀ (s t : State) (b : Byte) (n : Nat), (∀ x nn, decode s.fetchWord ≠ .ok (.rnd x nn)) → step s = .next t →
    step { s with rnd := b, rndDraws := n } = .next { t with rnd := b, rndDraws := n }

/-- What an earlier cycle left in OPCODE, ERR and SOUND_EDGE decides nothing: they are read by no instruction and latched
by nothing (R22, R34, R181; OPCODE kept after the cycle is decision D20). -/
def Obligations.OldOutputsDecideNothing : Prop :=
  ∀ (s : State) (w : Word) (e : Err) (b : Bool), step { s with opcode := w, err := e, soundEdge := b } = step s

/-- No instruction reads ST: with another value in it every instruction does the same, and FX18 overwrites it (R19,
R160). -/
def Obligations.SoundTimerIsReadByNoInstruction : Prop :=
  ∀ (i : Instr) (s t : State) (b : Byte), exec i s = .next t →
    ((∀ x, i ≠ .ldStVx x) → exec i (s.setSt b) = .next (t.setSt b)) ∧
    ((∃ x, i = .ldStVx x) → exec i (s.setSt b) = .next t)

/-- Every cycle keeps the invariant: MEM stays in its canonical form and I within 0 to 0xFFF (20_memory.md R46; R15,
derived by the spec; the form is log 18). -/
def Obligations.EveryCycleKeepsTheInvariant : Prop :=
  ∀ s t : State, MachineInv s → step s = .next t → MachineInv t

/-- So does every session of host operations and cycles: whatever the host does between cycles, MEM is canonical and I is
at most 0xFFF (R15, R35, R186). -/
def Obligations.EverySessionKeepsTheInvariant : Prop :=
  ∀ (events : List Event) (s t : State), MachineInv s → runEvents events s = .next t → MachineInv t
end

