-- ==== Sys2Proof/Laws/Config.lean ====
section
/-! SUPPORT. The types of Word.lean have the sizes that the parameters of 00_scope.md R5 give them, and the parameters agree
with one another. -/

namespace Sys2Proof

/-- `NREGS`, 8 bits each. -/
theorem reg_size : Reg = Fin Config.nRegs := rfl
theorem byte_width : Byte = BitVec Config.regBits := rfl
theorem flag_register : Reg.F.val = Config.flagReg := rfl

/-- `TIMER_BITS`: DT and ST are bytes. -/
theorem timer_width : Byte = BitVec Config.timerBits := rfl

/-- `PC_BITS` and `I_BITS`: PC, a stack slot and I are words. -/
theorem pc_width : Word = BitVec Config.pcBits := rfl
theorem index_width : Word = BitVec Config.iBits := rfl

/-- `INSN_BYTES`: an instruction is one word. -/
theorem instruction_width : Word = BitVec (8 * Config.insnBytes.toNat) := rfl

/-- `ADDR_BITS` is the width of NNN and reaches the `MEM_SIZE` bytes of MEM. -/
theorem address_width : Addr = BitVec Config.addrBits := rfl
theorem address_space : Config.memSize = 2 ^ Config.addrBits := rfl

/-- `STACK_DEPTH` and the range of SP. -/
theorem slot_size : Slot = Fin Config.stackDepth := rfl
theorem sp_size : SpCount = Fin (Config.stackDepth + 1) := rfl

/-- `FB_W`, `FB_H`. -/
theorem column_size : Column = Fin Config.fbWidth := rfl
theorem row_size : Row = Fin Config.fbHeight := rfl

/-- `NKEYS`. -/
theorem key_size : Key = Fin Config.nKeys := rfl

/-- `FONT_SIZE` is the length of `FONT`, 16 glyphs of `GLYPH_BYTES`. -/
theorem font_length : Config.font.length = Config.fontSize ∧ Config.fontSize = 16 * Config.glyphBytes := by decide

/-- `PROG_MAX` is what lies from `PROG_BASE` up. -/
theorem program_area : Config.progMax = Config.memSize - Config.progBase := rfl

end Sys2Proof
end

