-- ==== Sys2Proof/Laws/Decode.lean ====
section
/-! SUPPORT. The fields of a word put together from fields (00_scope.md R7, 30_encoding.md R61), and the bits each format
fixes. -/

namespace Sys2Proof

/-! ### Reading a field of a format -/

@[simp] theorem topNibble_formatA (op : BitVec 4) (nnn : Addr) : topNibble (formatA op nnn) = op :=
  BitVec.extractLsb'_append_eq_left

@[simp] theorem fieldNNN_formatA (op : BitVec 4) (nnn : Addr) : fieldNNN (formatA op nnn) = nnn :=
  BitVec.extractLsb'_append_eq_right

@[simp] theorem topNibble_formatX (op : BitVec 4) (x : Reg) (low : Byte) : topNibble (formatX op x low) = op :=
  BitVec.extractLsb'_append_eq_left

@[simp] theorem topNibble_formatR (op : BitVec 4) (x y : Reg) (low : BitVec 4) : topNibble (formatR op x y low) = op :=
  BitVec.extractLsb'_append_eq_left

@[simp] theorem fieldNN_formatX (op : BitVec 4) (x : Reg) (low : Byte) : fieldNN (formatX op x low) = low :=
  (BitVec.extractLsb'_append_eq_of_add_le (by decide)).trans BitVec.extractLsb'_append_eq_right

@[simp] theorem lowNibble_formatR (op : BitVec 4) (x y : Reg) (low : BitVec 4) : lowNibble (formatR op x y low) = low :=
  (BitVec.extractLsb'_append_eq_of_add_le (by decide)).trans
    ((BitVec.extractLsb'_append_eq_of_add_le (by decide)).trans BitVec.extractLsb'_append_eq_right)

theorem Reg.field_toNat (x : Reg) : x.field.toNat = x.val := by
  simp [Reg.field]

@[simp] theorem fieldX_formatX (op : BitVec 4) (x : Reg) (low : Byte) : fieldX (formatX op x low) = x := by
  have h : (formatX op x low).extractLsb' 8 4 = x.field :=
    (BitVec.extractLsb'_append_eq_of_add_le (by decide)).trans BitVec.extractLsb'_append_eq_left
  exact Fin.ext ((congrArg BitVec.toNat h).trans x.field_toNat)

@[simp] theorem fieldX_formatR (op : BitVec 4) (x y : Reg) (low : BitVec 4) : fieldX (formatR op x y low) = x := by
  have h : (formatR op x y low).extractLsb' 8 4 = x.field :=
    (BitVec.extractLsb'_append_eq_of_add_le (by decide)).trans BitVec.extractLsb'_append_eq_left
  exact Fin.ext ((congrArg BitVec.toNat h).trans x.field_toNat)

@[simp] theorem fieldY_formatR (op : BitVec 4) (x y : Reg) (low : BitVec 4) : fieldY (formatR op x y low) = y := by
  have h : (formatR op x y low).extractLsb' 4 4 = y.field :=
    (BitVec.extractLsb'_append_eq_of_add_le (by decide)).trans
      ((BitVec.extractLsb'_append_eq_of_add_le (by decide)).trans BitVec.extractLsb'_append_eq_left)
  exact Fin.ext ((congrArg BitVec.toNat h).trans y.field_toNat)

/-! ### The bits a format fixes -/

theorem nibble_and_allOnes (op : BitVec 4) : op &&& 0xF#4 = op := by revert op; decide

/-- Format A fixes the top nibble. -/
theorem formatA_fixed (op : BitVec 4) (nnn : Addr) : formatA op nnn &&& 0xF000 = op ++ 0#12 := by
  rw [formatA, show (0xF000 : Word) = 0xF#4 ++ 0#12 from rfl, BitVec.and_append, nibble_and_allOnes, BitVec.and_zero]

/-- Format I fixes the top nibble. -/
theorem formatX_fixed (op : BitVec 4) (x : Reg) (low : Byte) : formatX op x low &&& 0xF000 = op ++ 0#12 := by
  rw [formatX, show (0xF000 : Word) = 0xF#4 ++ 0#12 from rfl, BitVec.and_append, nibble_and_allOnes, BitVec.and_zero]

/-- Formats X and Z fix the top nibble and the low byte. -/
theorem formatX_fixed_low (op : BitVec 4) (x : Reg) (low : Byte) :
    formatX op x low &&& 0xF0FF = op ++ (0#4 ++ low) := by
  rw [formatX, show (0xF0FF : Word) = 0xF#4 ++ (0#4 ++ 0xFF#8) from rfl, BitVec.and_append, BitVec.and_append,
    nibble_and_allOnes, BitVec.and_zero, show low &&& 0xFF#8 = low from BitVec.and_allOnes]

/-- Format D fixes the top nibble. -/
theorem formatR_fixed (op : BitVec 4) (x y : Reg) (low : BitVec 4) :
    formatR op x y low &&& 0xF000 = op ++ 0#12 := by
  rw [formatR, show (0xF000 : Word) = 0xF#4 ++ 0#12 from rfl, BitVec.and_append, nibble_and_allOnes, BitVec.and_zero]

/-- Format R fixes the top and the low nibble. -/
theorem formatR_fixed_low (op : BitVec 4) (x y : Reg) (low : BitVec 4) :
    formatR op x y low &&& 0xF00F = op ++ (0#4 ++ (0#4 ++ low)) := by
  rw [formatR, show (0xF00F : Word) = 0xF#4 ++ (0#4 ++ (0#4 ++ 0xF#4)) from rfl, BitVec.and_append, BitVec.and_append,
    BitVec.and_append, nibble_and_allOnes, nibble_and_allOnes, BitVec.and_zero, BitVec.and_zero]

end Sys2Proof
end

