-- ==== Sys2Proof/Laws/State.lean ====
section
/-! SUPPORT. One lemma per field and per accessor for every update of State, each true by rfl, so that no proof unfolds an
update. -/

namespace Sys2Proof.Machine

variable (s : State)

/-! ### memWrite -/

@[simp] theorem State.memWrite_mem (a : Nat) (b : Byte) : (s.memWrite a b).mem = Memory.write s.mem (memIndex a) b := rfl
@[simp] theorem State.memWrite_v (a : Nat) (b : Byte) : (s.memWrite a b).v = s.v := rfl
@[simp] theorem State.memWrite_i (a : Nat) (b : Byte) : (s.memWrite a b).i = s.i := rfl
@[simp] theorem State.memWrite_pc (a : Nat) (b : Byte) : (s.memWrite a b).pc = s.pc := rfl
@[simp] theorem State.memWrite_sp (a : Nat) (b : Byte) : (s.memWrite a b).sp = s.sp := rfl
@[simp] theorem State.memWrite_stack (a : Nat) (b : Byte) : (s.memWrite a b).stack = s.stack := rfl
@[simp] theorem State.memWrite_dt (a : Nat) (b : Byte) : (s.memWrite a b).dt = s.dt := rfl
@[simp] theorem State.memWrite_st (a : Nat) (b : Byte) : (s.memWrite a b).st = s.st := rfl
@[simp] theorem State.memWrite_fb (a : Nat) (b : Byte) : (s.memWrite a b).fb = s.fb := rfl
@[simp] theorem State.memWrite_key (a : Nat) (b : Byte) : (s.memWrite a b).key = s.key := rfl
@[simp] theorem State.memWrite_opcode (a : Nat) (b : Byte) : (s.memWrite a b).opcode = s.opcode := rfl
@[simp] theorem State.memWrite_err (a : Nat) (b : Byte) : (s.memWrite a b).err = s.err := rfl
@[simp] theorem State.memWrite_soundEdge (a : Nat) (b : Byte) : (s.memWrite a b).soundEdge = s.soundEdge := rfl
@[simp] theorem State.memWrite_wentWrong (a : Nat) (b : Byte) : (s.memWrite a b).wentWrong = s.wentWrong := rfl
@[simp] theorem State.memWrite_rnd (a : Nat) (b : Byte) : (s.memWrite a b).rnd = s.rnd := rfl
@[simp] theorem State.memWrite_rndDraws (a : Nat) (b : Byte) : (s.memWrite a b).rndDraws = s.rndDraws := rfl
@[simp] theorem State.memWrite_getV (a : Nat) (b : Byte) (r : Reg) : (s.memWrite a b).getV r = s.getV r := rfl
@[simp] theorem State.memWrite_stackRead (a : Nat) (b : Byte) (j : Fin 16) : (s.memWrite a b).stackRead j = s.stackRead j := rfl
@[simp] theorem State.memWrite_getCell (a : Nat) (b : Byte) (p : Fin 64) (q : Fin 32) : (s.memWrite a b).getCell p q = s.getCell p q := rfl
@[simp] theorem State.memWrite_pressed (a : Nat) (b : Byte) (j : Fin 16) : (s.memWrite a b).pressed j = s.pressed j := rfl

/-! ### setV -/

@[simp] theorem State.setV_mem (x : Reg) (b : Byte) : (s.setV x b).mem = s.mem := rfl
@[simp] theorem State.setV_v (x : Reg) (b : Byte) : (s.setV x b).v = s.v.set x.val b := rfl
@[simp] theorem State.setV_i (x : Reg) (b : Byte) : (s.setV x b).i = s.i := rfl
@[simp] theorem State.setV_pc (x : Reg) (b : Byte) : (s.setV x b).pc = s.pc := rfl
@[simp] theorem State.setV_sp (x : Reg) (b : Byte) : (s.setV x b).sp = s.sp := rfl
@[simp] theorem State.setV_stack (x : Reg) (b : Byte) : (s.setV x b).stack = s.stack := rfl
@[simp] theorem State.setV_dt (x : Reg) (b : Byte) : (s.setV x b).dt = s.dt := rfl
@[simp] theorem State.setV_st (x : Reg) (b : Byte) : (s.setV x b).st = s.st := rfl
@[simp] theorem State.setV_fb (x : Reg) (b : Byte) : (s.setV x b).fb = s.fb := rfl
@[simp] theorem State.setV_key (x : Reg) (b : Byte) : (s.setV x b).key = s.key := rfl
@[simp] theorem State.setV_opcode (x : Reg) (b : Byte) : (s.setV x b).opcode = s.opcode := rfl
@[simp] theorem State.setV_err (x : Reg) (b : Byte) : (s.setV x b).err = s.err := rfl
@[simp] theorem State.setV_soundEdge (x : Reg) (b : Byte) : (s.setV x b).soundEdge = s.soundEdge := rfl
@[simp] theorem State.setV_wentWrong (x : Reg) (b : Byte) : (s.setV x b).wentWrong = s.wentWrong := rfl
@[simp] theorem State.setV_rnd (x : Reg) (b : Byte) : (s.setV x b).rnd = s.rnd := rfl
@[simp] theorem State.setV_rndDraws (x : Reg) (b : Byte) : (s.setV x b).rndDraws = s.rndDraws := rfl
@[simp] theorem State.setV_memRead (x : Reg) (b : Byte) (c : Nat) : (s.setV x b).memRead c = s.memRead c := rfl
@[simp] theorem State.setV_stackRead (x : Reg) (b : Byte) (j : Fin 16) : (s.setV x b).stackRead j = s.stackRead j := rfl
@[simp] theorem State.setV_getCell (x : Reg) (b : Byte) (p : Fin 64) (q : Fin 32) : (s.setV x b).getCell p q = s.getCell p q := rfl
@[simp] theorem State.setV_pressed (x : Reg) (b : Byte) (j : Fin 16) : (s.setV x b).pressed j = s.pressed j := rfl

/-! ### setI -/

@[simp] theorem State.setI_mem (w : Word) : (s.setI w).mem = s.mem := rfl
@[simp] theorem State.setI_v (w : Word) : (s.setI w).v = s.v := rfl
@[simp] theorem State.setI_i (w : Word) : (s.setI w).i = w := rfl
@[simp] theorem State.setI_pc (w : Word) : (s.setI w).pc = s.pc := rfl
@[simp] theorem State.setI_sp (w : Word) : (s.setI w).sp = s.sp := rfl
@[simp] theorem State.setI_stack (w : Word) : (s.setI w).stack = s.stack := rfl
@[simp] theorem State.setI_dt (w : Word) : (s.setI w).dt = s.dt := rfl
@[simp] theorem State.setI_st (w : Word) : (s.setI w).st = s.st := rfl
@[simp] theorem State.setI_fb (w : Word) : (s.setI w).fb = s.fb := rfl
@[simp] theorem State.setI_key (w : Word) : (s.setI w).key = s.key := rfl
@[simp] theorem State.setI_opcode (w : Word) : (s.setI w).opcode = s.opcode := rfl
@[simp] theorem State.setI_err (w : Word) : (s.setI w).err = s.err := rfl
@[simp] theorem State.setI_soundEdge (w : Word) : (s.setI w).soundEdge = s.soundEdge := rfl
@[simp] theorem State.setI_wentWrong (w : Word) : (s.setI w).wentWrong = s.wentWrong := rfl
@[simp] theorem State.setI_rnd (w : Word) : (s.setI w).rnd = s.rnd := rfl
@[simp] theorem State.setI_rndDraws (w : Word) : (s.setI w).rndDraws = s.rndDraws := rfl
@[simp] theorem State.setI_memRead (w : Word) (c : Nat) : (s.setI w).memRead c = s.memRead c := rfl
@[simp] theorem State.setI_getV (w : Word) (r : Reg) : (s.setI w).getV r = s.getV r := rfl
@[simp] theorem State.setI_stackRead (w : Word) (j : Fin 16) : (s.setI w).stackRead j = s.stackRead j := rfl
@[simp] theorem State.setI_getCell (w : Word) (p : Fin 64) (q : Fin 32) : (s.setI w).getCell p q = s.getCell p q := rfl
@[simp] theorem State.setI_pressed (w : Word) (j : Fin 16) : (s.setI w).pressed j = s.pressed j := rfl

/-! ### setDt -/

@[simp] theorem State.setDt_mem (b : Byte) : (s.setDt b).mem = s.mem := rfl
@[simp] theorem State.setDt_v (b : Byte) : (s.setDt b).v = s.v := rfl
@[simp] theorem State.setDt_i (b : Byte) : (s.setDt b).i = s.i := rfl
@[simp] theorem State.setDt_pc (b : Byte) : (s.setDt b).pc = s.pc := rfl
@[simp] theorem State.setDt_sp (b : Byte) : (s.setDt b).sp = s.sp := rfl
@[simp] theorem State.setDt_stack (b : Byte) : (s.setDt b).stack = s.stack := rfl
@[simp] theorem State.setDt_dt (b : Byte) : (s.setDt b).dt = b := rfl
@[simp] theorem State.setDt_st (b : Byte) : (s.setDt b).st = s.st := rfl
@[simp] theorem State.setDt_fb (b : Byte) : (s.setDt b).fb = s.fb := rfl
@[simp] theorem State.setDt_key (b : Byte) : (s.setDt b).key = s.key := rfl
@[simp] theorem State.setDt_opcode (b : Byte) : (s.setDt b).opcode = s.opcode := rfl
@[simp] theorem State.setDt_err (b : Byte) : (s.setDt b).err = s.err := rfl
@[simp] theorem State.setDt_soundEdge (b : Byte) : (s.setDt b).soundEdge = s.soundEdge := rfl
@[simp] theorem State.setDt_wentWrong (b : Byte) : (s.setDt b).wentWrong = s.wentWrong := rfl
@[simp] theorem State.setDt_rnd (b : Byte) : (s.setDt b).rnd = s.rnd := rfl
@[simp] theorem State.setDt_rndDraws (b : Byte) : (s.setDt b).rndDraws = s.rndDraws := rfl
@[simp] theorem State.setDt_memRead (b : Byte) (c : Nat) : (s.setDt b).memRead c = s.memRead c := rfl
@[simp] theorem State.setDt_getV (b : Byte) (r : Reg) : (s.setDt b).getV r = s.getV r := rfl
@[simp] theorem State.setDt_stackRead (b : Byte) (j : Fin 16) : (s.setDt b).stackRead j = s.stackRead j := rfl
@[simp] theorem State.setDt_getCell (b : Byte) (p : Fin 64) (q : Fin 32) : (s.setDt b).getCell p q = s.getCell p q := rfl
@[simp] theorem State.setDt_pressed (b : Byte) (j : Fin 16) : (s.setDt b).pressed j = s.pressed j := rfl

/-! ### setSt -/

@[simp] theorem State.setSt_mem (b : Byte) : (s.setSt b).mem = s.mem := rfl
@[simp] theorem State.setSt_v (b : Byte) : (s.setSt b).v = s.v := rfl
@[simp] theorem State.setSt_i (b : Byte) : (s.setSt b).i = s.i := rfl
@[simp] theorem State.setSt_pc (b : Byte) : (s.setSt b).pc = s.pc := rfl
@[simp] theorem State.setSt_sp (b : Byte) : (s.setSt b).sp = s.sp := rfl
@[simp] theorem State.setSt_stack (b : Byte) : (s.setSt b).stack = s.stack := rfl
@[simp] theorem State.setSt_dt (b : Byte) : (s.setSt b).dt = s.dt := rfl
@[simp] theorem State.setSt_st (b : Byte) : (s.setSt b).st = b := rfl
@[simp] theorem State.setSt_fb (b : Byte) : (s.setSt b).fb = s.fb := rfl
@[simp] theorem State.setSt_key (b : Byte) : (s.setSt b).key = s.key := rfl
@[simp] theorem State.setSt_opcode (b : Byte) : (s.setSt b).opcode = s.opcode := rfl
@[simp] theorem State.setSt_err (b : Byte) : (s.setSt b).err = s.err := rfl
@[simp] theorem State.setSt_soundEdge (b : Byte) : (s.setSt b).soundEdge = s.soundEdge := rfl
@[simp] theorem State.setSt_wentWrong (b : Byte) : (s.setSt b).wentWrong = s.wentWrong := rfl
@[simp] theorem State.setSt_rnd (b : Byte) : (s.setSt b).rnd = s.rnd := rfl
@[simp] theorem State.setSt_rndDraws (b : Byte) : (s.setSt b).rndDraws = s.rndDraws := rfl
@[simp] theorem State.setSt_memRead (b : Byte) (c : Nat) : (s.setSt b).memRead c = s.memRead c := rfl
@[simp] theorem State.setSt_getV (b : Byte) (r : Reg) : (s.setSt b).getV r = s.getV r := rfl
@[simp] theorem State.setSt_stackRead (b : Byte) (j : Fin 16) : (s.setSt b).stackRead j = s.stackRead j := rfl
@[simp] theorem State.setSt_getCell (b : Byte) (p : Fin 64) (q : Fin 32) : (s.setSt b).getCell p q = s.getCell p q := rfl
@[simp] theorem State.setSt_pressed (b : Byte) (j : Fin 16) : (s.setSt b).pressed j = s.pressed j := rfl

/-! ### setPc -/

@[simp] theorem State.setPc_mem (w : Word) : (s.setPc w).mem = s.mem := rfl
@[simp] theorem State.setPc_v (w : Word) : (s.setPc w).v = s.v := rfl
@[simp] theorem State.setPc_i (w : Word) : (s.setPc w).i = s.i := rfl
@[simp] theorem State.setPc_pc (w : Word) : (s.setPc w).pc = w := rfl
@[simp] theorem State.setPc_sp (w : Word) : (s.setPc w).sp = s.sp := rfl
@[simp] theorem State.setPc_stack (w : Word) : (s.setPc w).stack = s.stack := rfl
@[simp] theorem State.setPc_dt (w : Word) : (s.setPc w).dt = s.dt := rfl
@[simp] theorem State.setPc_st (w : Word) : (s.setPc w).st = s.st := rfl
@[simp] theorem State.setPc_fb (w : Word) : (s.setPc w).fb = s.fb := rfl
@[simp] theorem State.setPc_key (w : Word) : (s.setPc w).key = s.key := rfl
@[simp] theorem State.setPc_opcode (w : Word) : (s.setPc w).opcode = s.opcode := rfl
@[simp] theorem State.setPc_err (w : Word) : (s.setPc w).err = s.err := rfl
@[simp] theorem State.setPc_soundEdge (w : Word) : (s.setPc w).soundEdge = s.soundEdge := rfl
@[simp] theorem State.setPc_wentWrong (w : Word) : (s.setPc w).wentWrong = s.wentWrong := rfl
@[simp] theorem State.setPc_rnd (w : Word) : (s.setPc w).rnd = s.rnd := rfl
@[simp] theorem State.setPc_rndDraws (w : Word) : (s.setPc w).rndDraws = s.rndDraws := rfl
@[simp] theorem State.setPc_memRead (w : Word) (c : Nat) : (s.setPc w).memRead c = s.memRead c := rfl
@[simp] theorem State.setPc_getV (w : Word) (r : Reg) : (s.setPc w).getV r = s.getV r := rfl
@[simp] theorem State.setPc_stackRead (w : Word) (j : Fin 16) : (s.setPc w).stackRead j = s.stackRead j := rfl
@[simp] theorem State.setPc_getCell (w : Word) (p : Fin 64) (q : Fin 32) : (s.setPc w).getCell p q = s.getCell p q := rfl
@[simp] theorem State.setPc_pressed (w : Word) (j : Fin 16) : (s.setPc w).pressed j = s.pressed j := rfl

/-! ### advance -/

@[simp] theorem State.advance_mem : s.advance.mem = s.mem := rfl
@[simp] theorem State.advance_v : s.advance.v = s.v := rfl
@[simp] theorem State.advance_i : s.advance.i = s.i := rfl
@[simp] theorem State.advance_pc : s.advance.pc = s.pc + 2 := rfl
@[simp] theorem State.advance_sp : s.advance.sp = s.sp := rfl
@[simp] theorem State.advance_stack : s.advance.stack = s.stack := rfl
@[simp] theorem State.advance_dt : s.advance.dt = s.dt := rfl
@[simp] theorem State.advance_st : s.advance.st = s.st := rfl
@[simp] theorem State.advance_fb : s.advance.fb = s.fb := rfl
@[simp] theorem State.advance_key : s.advance.key = s.key := rfl
@[simp] theorem State.advance_opcode : s.advance.opcode = s.opcode := rfl
@[simp] theorem State.advance_err : s.advance.err = s.err := rfl
@[simp] theorem State.advance_soundEdge : s.advance.soundEdge = s.soundEdge := rfl
@[simp] theorem State.advance_wentWrong : s.advance.wentWrong = s.wentWrong := rfl
@[simp] theorem State.advance_rnd : s.advance.rnd = s.rnd := rfl
@[simp] theorem State.advance_rndDraws : s.advance.rndDraws = s.rndDraws := rfl
@[simp] theorem State.advance_memRead (c : Nat) : s.advance.memRead c = s.memRead c := rfl
@[simp] theorem State.advance_getV (r : Reg) : s.advance.getV r = s.getV r := rfl
@[simp] theorem State.advance_stackRead (j : Fin 16) : s.advance.stackRead j = s.stackRead j := rfl
@[simp] theorem State.advance_getCell (p : Fin 64) (q : Fin 32) : s.advance.getCell p q = s.getCell p q := rfl
@[simp] theorem State.advance_pressed (j : Fin 16) : s.advance.pressed j = s.pressed j := rfl

/-! ### skipIf -/

@[simp] theorem State.skipIf_mem (taken : Bool) : (s.skipIf taken).mem = s.mem := rfl
@[simp] theorem State.skipIf_v (taken : Bool) : (s.skipIf taken).v = s.v := rfl
@[simp] theorem State.skipIf_i (taken : Bool) : (s.skipIf taken).i = s.i := rfl
@[simp] theorem State.skipIf_pc (taken : Bool) : (s.skipIf taken).pc = s.pc + if taken then 4 else 2 := rfl
@[simp] theorem State.skipIf_sp (taken : Bool) : (s.skipIf taken).sp = s.sp := rfl
@[simp] theorem State.skipIf_stack (taken : Bool) : (s.skipIf taken).stack = s.stack := rfl
@[simp] theorem State.skipIf_dt (taken : Bool) : (s.skipIf taken).dt = s.dt := rfl
@[simp] theorem State.skipIf_st (taken : Bool) : (s.skipIf taken).st = s.st := rfl
@[simp] theorem State.skipIf_fb (taken : Bool) : (s.skipIf taken).fb = s.fb := rfl
@[simp] theorem State.skipIf_key (taken : Bool) : (s.skipIf taken).key = s.key := rfl
@[simp] theorem State.skipIf_opcode (taken : Bool) : (s.skipIf taken).opcode = s.opcode := rfl
@[simp] theorem State.skipIf_err (taken : Bool) : (s.skipIf taken).err = s.err := rfl
@[simp] theorem State.skipIf_soundEdge (taken : Bool) : (s.skipIf taken).soundEdge = s.soundEdge := rfl
@[simp] theorem State.skipIf_wentWrong (taken : Bool) : (s.skipIf taken).wentWrong = s.wentWrong := rfl
@[simp] theorem State.skipIf_rnd (taken : Bool) : (s.skipIf taken).rnd = s.rnd := rfl
@[simp] theorem State.skipIf_rndDraws (taken : Bool) : (s.skipIf taken).rndDraws = s.rndDraws := rfl
@[simp] theorem State.skipIf_memRead (taken : Bool) (c : Nat) : (s.skipIf taken).memRead c = s.memRead c := rfl
@[simp] theorem State.skipIf_getV (taken : Bool) (r : Reg) : (s.skipIf taken).getV r = s.getV r := rfl
@[simp] theorem State.skipIf_stackRead (taken : Bool) (j : Fin 16) : (s.skipIf taken).stackRead j = s.stackRead j := rfl
@[simp] theorem State.skipIf_getCell (taken : Bool) (p : Fin 64) (q : Fin 32) : (s.skipIf taken).getCell p q = s.getCell p q := rfl
@[simp] theorem State.skipIf_pressed (taken : Bool) (j : Fin 16) : (s.skipIf taken).pressed j = s.pressed j := rfl

/-! ### stackWrite -/

@[simp] theorem State.stackWrite_mem (k : Fin 16) (w : Word) : (s.stackWrite k w).mem = s.mem := rfl
@[simp] theorem State.stackWrite_v (k : Fin 16) (w : Word) : (s.stackWrite k w).v = s.v := rfl
@[simp] theorem State.stackWrite_i (k : Fin 16) (w : Word) : (s.stackWrite k w).i = s.i := rfl
@[simp] theorem State.stackWrite_pc (k : Fin 16) (w : Word) : (s.stackWrite k w).pc = s.pc := rfl
@[simp] theorem State.stackWrite_sp (k : Fin 16) (w : Word) : (s.stackWrite k w).sp = s.sp := rfl
@[simp] theorem State.stackWrite_stack (k : Fin 16) (w : Word) : (s.stackWrite k w).stack = s.stack.set k.val w := rfl
@[simp] theorem State.stackWrite_dt (k : Fin 16) (w : Word) : (s.stackWrite k w).dt = s.dt := rfl
@[simp] theorem State.stackWrite_st (k : Fin 16) (w : Word) : (s.stackWrite k w).st = s.st := rfl
@[simp] theorem State.stackWrite_fb (k : Fin 16) (w : Word) : (s.stackWrite k w).fb = s.fb := rfl
@[simp] theorem State.stackWrite_key (k : Fin 16) (w : Word) : (s.stackWrite k w).key = s.key := rfl
@[simp] theorem State.stackWrite_opcode (k : Fin 16) (w : Word) : (s.stackWrite k w).opcode = s.opcode := rfl
@[simp] theorem State.stackWrite_err (k : Fin 16) (w : Word) : (s.stackWrite k w).err = s.err := rfl
@[simp] theorem State.stackWrite_soundEdge (k : Fin 16) (w : Word) : (s.stackWrite k w).soundEdge = s.soundEdge := rfl
@[simp] theorem State.stackWrite_wentWrong (k : Fin 16) (w : Word) : (s.stackWrite k w).wentWrong = s.wentWrong := rfl
@[simp] theorem State.stackWrite_rnd (k : Fin 16) (w : Word) : (s.stackWrite k w).rnd = s.rnd := rfl
@[simp] theorem State.stackWrite_rndDraws (k : Fin 16) (w : Word) : (s.stackWrite k w).rndDraws = s.rndDraws := rfl
@[simp] theorem State.stackWrite_memRead (k : Fin 16) (w : Word) (c : Nat) : (s.stackWrite k w).memRead c = s.memRead c := rfl
@[simp] theorem State.stackWrite_getV (k : Fin 16) (w : Word) (r : Reg) : (s.stackWrite k w).getV r = s.getV r := rfl
@[simp] theorem State.stackWrite_getCell (k : Fin 16) (w : Word) (p : Fin 64) (q : Fin 32) : (s.stackWrite k w).getCell p q = s.getCell p q := rfl
@[simp] theorem State.stackWrite_pressed (k : Fin 16) (w : Word) (j : Fin 16) : (s.stackWrite k w).pressed j = s.pressed j := rfl

/-! ### setSp -/

@[simp] theorem State.setSp_mem (n : Fin 17) : (s.setSp n).mem = s.mem := rfl
@[simp] theorem State.setSp_v (n : Fin 17) : (s.setSp n).v = s.v := rfl
@[simp] theorem State.setSp_i (n : Fin 17) : (s.setSp n).i = s.i := rfl
@[simp] theorem State.setSp_pc (n : Fin 17) : (s.setSp n).pc = s.pc := rfl
@[simp] theorem State.setSp_sp (n : Fin 17) : (s.setSp n).sp = n := rfl
@[simp] theorem State.setSp_stack (n : Fin 17) : (s.setSp n).stack = s.stack := rfl
@[simp] theorem State.setSp_dt (n : Fin 17) : (s.setSp n).dt = s.dt := rfl
@[simp] theorem State.setSp_st (n : Fin 17) : (s.setSp n).st = s.st := rfl
@[simp] theorem State.setSp_fb (n : Fin 17) : (s.setSp n).fb = s.fb := rfl
@[simp] theorem State.setSp_key (n : Fin 17) : (s.setSp n).key = s.key := rfl
@[simp] theorem State.setSp_opcode (n : Fin 17) : (s.setSp n).opcode = s.opcode := rfl
@[simp] theorem State.setSp_err (n : Fin 17) : (s.setSp n).err = s.err := rfl
@[simp] theorem State.setSp_soundEdge (n : Fin 17) : (s.setSp n).soundEdge = s.soundEdge := rfl
@[simp] theorem State.setSp_wentWrong (n : Fin 17) : (s.setSp n).wentWrong = s.wentWrong := rfl
@[simp] theorem State.setSp_rnd (n : Fin 17) : (s.setSp n).rnd = s.rnd := rfl
@[simp] theorem State.setSp_rndDraws (n : Fin 17) : (s.setSp n).rndDraws = s.rndDraws := rfl
@[simp] theorem State.setSp_memRead (n : Fin 17) (c : Nat) : (s.setSp n).memRead c = s.memRead c := rfl
@[simp] theorem State.setSp_getV (n : Fin 17) (r : Reg) : (s.setSp n).getV r = s.getV r := rfl
@[simp] theorem State.setSp_stackRead (n : Fin 17) (j : Fin 16) : (s.setSp n).stackRead j = s.stackRead j := rfl
@[simp] theorem State.setSp_getCell (n : Fin 17) (p : Fin 64) (q : Fin 32) : (s.setSp n).getCell p q = s.getCell p q := rfl
@[simp] theorem State.setSp_pressed (n : Fin 17) (j : Fin 16) : (s.setSp n).pressed j = s.pressed j := rfl

/-! ### setCell -/

@[simp] theorem State.setCell_mem (x : Fin 64) (y : Fin 32) (b : Bool) : (s.setCell x y b).mem = s.mem := rfl
@[simp] theorem State.setCell_v (x : Fin 64) (y : Fin 32) (b : Bool) : (s.setCell x y b).v = s.v := rfl
@[simp] theorem State.setCell_i (x : Fin 64) (y : Fin 32) (b : Bool) : (s.setCell x y b).i = s.i := rfl
@[simp] theorem State.setCell_pc (x : Fin 64) (y : Fin 32) (b : Bool) : (s.setCell x y b).pc = s.pc := rfl
@[simp] theorem State.setCell_sp (x : Fin 64) (y : Fin 32) (b : Bool) : (s.setCell x y b).sp = s.sp := rfl
@[simp] theorem State.setCell_stack (x : Fin 64) (y : Fin 32) (b : Bool) : (s.setCell x y b).stack = s.stack := rfl
@[simp] theorem State.setCell_dt (x : Fin 64) (y : Fin 32) (b : Bool) : (s.setCell x y b).dt = s.dt := rfl
@[simp] theorem State.setCell_st (x : Fin 64) (y : Fin 32) (b : Bool) : (s.setCell x y b).st = s.st := rfl
@[simp] theorem State.setCell_fb (x : Fin 64) (y : Fin 32) (b : Bool) : (s.setCell x y b).fb = s.fb.set y.val (s.fb[y.val].set x.val b) := rfl
@[simp] theorem State.setCell_key (x : Fin 64) (y : Fin 32) (b : Bool) : (s.setCell x y b).key = s.key := rfl
@[simp] theorem State.setCell_opcode (x : Fin 64) (y : Fin 32) (b : Bool) : (s.setCell x y b).opcode = s.opcode := rfl
@[simp] theorem State.setCell_err (x : Fin 64) (y : Fin 32) (b : Bool) : (s.setCell x y b).err = s.err := rfl
@[simp] theorem State.setCell_soundEdge (x : Fin 64) (y : Fin 32) (b : Bool) : (s.setCell x y b).soundEdge = s.soundEdge := rfl
@[simp] theorem State.setCell_wentWrong (x : Fin 64) (y : Fin 32) (b : Bool) : (s.setCell x y b).wentWrong = s.wentWrong := rfl
@[simp] theorem State.setCell_rnd (x : Fin 64) (y : Fin 32) (b : Bool) : (s.setCell x y b).rnd = s.rnd := rfl
@[simp] theorem State.setCell_rndDraws (x : Fin 64) (y : Fin 32) (b : Bool) : (s.setCell x y b).rndDraws = s.rndDraws := rfl
@[simp] theorem State.setCell_memRead (x : Fin 64) (y : Fin 32) (b : Bool) (c : Nat) : (s.setCell x y b).memRead c = s.memRead c := rfl
@[simp] theorem State.setCell_getV (x : Fin 64) (y : Fin 32) (b : Bool) (r : Reg) : (s.setCell x y b).getV r = s.getV r := rfl
@[simp] theorem State.setCell_stackRead (x : Fin 64) (y : Fin 32) (b : Bool) (j : Fin 16) : (s.setCell x y b).stackRead j = s.stackRead j := rfl
@[simp] theorem State.setCell_pressed (x : Fin 64) (y : Fin 32) (b : Bool) (j : Fin 16) : (s.setCell x y b).pressed j = s.pressed j := rfl

/-! ### clearCells -/

@[simp] theorem State.clearCells_mem : s.clearCells.mem = s.mem := rfl
@[simp] theorem State.clearCells_v : s.clearCells.v = s.v := rfl
@[simp] theorem State.clearCells_i : s.clearCells.i = s.i := rfl
@[simp] theorem State.clearCells_pc : s.clearCells.pc = s.pc := rfl
@[simp] theorem State.clearCells_sp : s.clearCells.sp = s.sp := rfl
@[simp] theorem State.clearCells_stack : s.clearCells.stack = s.stack := rfl
@[simp] theorem State.clearCells_dt : s.clearCells.dt = s.dt := rfl
@[simp] theorem State.clearCells_st : s.clearCells.st = s.st := rfl
@[simp] theorem State.clearCells_fb : s.clearCells.fb = clearedFb := rfl
@[simp] theorem State.clearCells_key : s.clearCells.key = s.key := rfl
@[simp] theorem State.clearCells_opcode : s.clearCells.opcode = s.opcode := rfl
@[simp] theorem State.clearCells_err : s.clearCells.err = s.err := rfl
@[simp] theorem State.clearCells_soundEdge : s.clearCells.soundEdge = s.soundEdge := rfl
@[simp] theorem State.clearCells_wentWrong : s.clearCells.wentWrong = s.wentWrong := rfl
@[simp] theorem State.clearCells_rnd : s.clearCells.rnd = s.rnd := rfl
@[simp] theorem State.clearCells_rndDraws : s.clearCells.rndDraws = s.rndDraws := rfl
@[simp] theorem State.clearCells_memRead (c : Nat) : s.clearCells.memRead c = s.memRead c := rfl
@[simp] theorem State.clearCells_getV (r : Reg) : s.clearCells.getV r = s.getV r := rfl
@[simp] theorem State.clearCells_stackRead (j : Fin 16) : s.clearCells.stackRead j = s.stackRead j := rfl
@[simp] theorem State.clearCells_pressed (j : Fin 16) : s.clearCells.pressed j = s.pressed j := rfl

/-! ### setKey -/

@[simp] theorem State.setKey_mem (k : Fin 16) (b : Bool) : (s.setKey k b).mem = s.mem := rfl
@[simp] theorem State.setKey_v (k : Fin 16) (b : Bool) : (s.setKey k b).v = s.v := rfl
@[simp] theorem State.setKey_i (k : Fin 16) (b : Bool) : (s.setKey k b).i = s.i := rfl
@[simp] theorem State.setKey_pc (k : Fin 16) (b : Bool) : (s.setKey k b).pc = s.pc := rfl
@[simp] theorem State.setKey_sp (k : Fin 16) (b : Bool) : (s.setKey k b).sp = s.sp := rfl
@[simp] theorem State.setKey_stack (k : Fin 16) (b : Bool) : (s.setKey k b).stack = s.stack := rfl
@[simp] theorem State.setKey_dt (k : Fin 16) (b : Bool) : (s.setKey k b).dt = s.dt := rfl
@[simp] theorem State.setKey_st (k : Fin 16) (b : Bool) : (s.setKey k b).st = s.st := rfl
@[simp] theorem State.setKey_fb (k : Fin 16) (b : Bool) : (s.setKey k b).fb = s.fb := rfl
@[simp] theorem State.setKey_key (k : Fin 16) (b : Bool) : (s.setKey k b).key = s.key.set k.val b := rfl
@[simp] theorem State.setKey_opcode (k : Fin 16) (b : Bool) : (s.setKey k b).opcode = s.opcode := rfl
@[simp] theorem State.setKey_err (k : Fin 16) (b : Bool) : (s.setKey k b).err = s.err := rfl
@[simp] theorem State.setKey_soundEdge (k : Fin 16) (b : Bool) : (s.setKey k b).soundEdge = s.soundEdge := rfl
@[simp] theorem State.setKey_wentWrong (k : Fin 16) (b : Bool) : (s.setKey k b).wentWrong = s.wentWrong := rfl
@[simp] theorem State.setKey_rnd (k : Fin 16) (b : Bool) : (s.setKey k b).rnd = s.rnd := rfl
@[simp] theorem State.setKey_rndDraws (k : Fin 16) (b : Bool) : (s.setKey k b).rndDraws = s.rndDraws := rfl
@[simp] theorem State.setKey_memRead (k : Fin 16) (b : Bool) (c : Nat) : (s.setKey k b).memRead c = s.memRead c := rfl
@[simp] theorem State.setKey_getV (k : Fin 16) (b : Bool) (r : Reg) : (s.setKey k b).getV r = s.getV r := rfl
@[simp] theorem State.setKey_stackRead (k : Fin 16) (b : Bool) (j : Fin 16) : (s.setKey k b).stackRead j = s.stackRead j := rfl
@[simp] theorem State.setKey_getCell (k : Fin 16) (b : Bool) (p : Fin 64) (q : Fin 32) : (s.setKey k b).getCell p q = s.getCell p q := rfl

/-! ### setRnd -/

@[simp] theorem State.setRnd_mem (b : Byte) : (s.setRnd b).mem = s.mem := rfl
@[simp] theorem State.setRnd_v (b : Byte) : (s.setRnd b).v = s.v := rfl
@[simp] theorem State.setRnd_i (b : Byte) : (s.setRnd b).i = s.i := rfl
@[simp] theorem State.setRnd_pc (b : Byte) : (s.setRnd b).pc = s.pc := rfl
@[simp] theorem State.setRnd_sp (b : Byte) : (s.setRnd b).sp = s.sp := rfl
@[simp] theorem State.setRnd_stack (b : Byte) : (s.setRnd b).stack = s.stack := rfl
@[simp] theorem State.setRnd_dt (b : Byte) : (s.setRnd b).dt = s.dt := rfl
@[simp] theorem State.setRnd_st (b : Byte) : (s.setRnd b).st = s.st := rfl
@[simp] theorem State.setRnd_fb (b : Byte) : (s.setRnd b).fb = s.fb := rfl
@[simp] theorem State.setRnd_key (b : Byte) : (s.setRnd b).key = s.key := rfl
@[simp] theorem State.setRnd_opcode (b : Byte) : (s.setRnd b).opcode = s.opcode := rfl
@[simp] theorem State.setRnd_err (b : Byte) : (s.setRnd b).err = s.err := rfl
@[simp] theorem State.setRnd_soundEdge (b : Byte) : (s.setRnd b).soundEdge = s.soundEdge := rfl
@[simp] theorem State.setRnd_wentWrong (b : Byte) : (s.setRnd b).wentWrong = s.wentWrong := rfl
@[simp] theorem State.setRnd_rnd (b : Byte) : (s.setRnd b).rnd = b := rfl
@[simp] theorem State.setRnd_rndDraws (b : Byte) : (s.setRnd b).rndDraws = s.rndDraws := rfl
@[simp] theorem State.setRnd_memRead (b : Byte) (c : Nat) : (s.setRnd b).memRead c = s.memRead c := rfl
@[simp] theorem State.setRnd_getV (b : Byte) (r : Reg) : (s.setRnd b).getV r = s.getV r := rfl
@[simp] theorem State.setRnd_stackRead (b : Byte) (j : Fin 16) : (s.setRnd b).stackRead j = s.stackRead j := rfl
@[simp] theorem State.setRnd_getCell (b : Byte) (p : Fin 64) (q : Fin 32) : (s.setRnd b).getCell p q = s.getCell p q := rfl
@[simp] theorem State.setRnd_pressed (b : Byte) (j : Fin 16) : (s.setRnd b).pressed j = s.pressed j := rfl

/-! ### refreshRnd -/

@[simp] theorem State.refreshRnd_mem : s.refreshRnd.mem = s.mem := rfl
@[simp] theorem State.refreshRnd_v : s.refreshRnd.v = s.v := rfl
@[simp] theorem State.refreshRnd_i : s.refreshRnd.i = s.i := rfl
@[simp] theorem State.refreshRnd_pc : s.refreshRnd.pc = s.pc := rfl
@[simp] theorem State.refreshRnd_sp : s.refreshRnd.sp = s.sp := rfl
@[simp] theorem State.refreshRnd_stack : s.refreshRnd.stack = s.stack := rfl
@[simp] theorem State.refreshRnd_dt : s.refreshRnd.dt = s.dt := rfl
@[simp] theorem State.refreshRnd_st : s.refreshRnd.st = s.st := rfl
@[simp] theorem State.refreshRnd_fb : s.refreshRnd.fb = s.fb := rfl
@[simp] theorem State.refreshRnd_key : s.refreshRnd.key = s.key := rfl
@[simp] theorem State.refreshRnd_opcode : s.refreshRnd.opcode = s.opcode := rfl
@[simp] theorem State.refreshRnd_err : s.refreshRnd.err = s.err := rfl
@[simp] theorem State.refreshRnd_soundEdge : s.refreshRnd.soundEdge = s.soundEdge := rfl
@[simp] theorem State.refreshRnd_wentWrong : s.refreshRnd.wentWrong = s.wentWrong := rfl
@[simp] theorem State.refreshRnd_rnd : s.refreshRnd.rnd = Config.rndByte (s.rndDraws + 1) := rfl
@[simp] theorem State.refreshRnd_rndDraws : s.refreshRnd.rndDraws = s.rndDraws + 1 := rfl
@[simp] theorem State.refreshRnd_memRead (c : Nat) : s.refreshRnd.memRead c = s.memRead c := rfl
@[simp] theorem State.refreshRnd_getV (r : Reg) : s.refreshRnd.getV r = s.getV r := rfl
@[simp] theorem State.refreshRnd_stackRead (j : Fin 16) : s.refreshRnd.stackRead j = s.stackRead j := rfl
@[simp] theorem State.refreshRnd_getCell (p : Fin 64) (q : Fin 32) : s.refreshRnd.getCell p q = s.getCell p q := rfl
@[simp] theorem State.refreshRnd_pressed (j : Fin 16) : s.refreshRnd.pressed j = s.pressed j := rfl

/-! ### setOpcode -/

@[simp] theorem State.setOpcode_mem (w : Word) : (s.setOpcode w).mem = s.mem := rfl
@[simp] theorem State.setOpcode_v (w : Word) : (s.setOpcode w).v = s.v := rfl
@[simp] theorem State.setOpcode_i (w : Word) : (s.setOpcode w).i = s.i := rfl
@[simp] theorem State.setOpcode_pc (w : Word) : (s.setOpcode w).pc = s.pc := rfl
@[simp] theorem State.setOpcode_sp (w : Word) : (s.setOpcode w).sp = s.sp := rfl
@[simp] theorem State.setOpcode_stack (w : Word) : (s.setOpcode w).stack = s.stack := rfl
@[simp] theorem State.setOpcode_dt (w : Word) : (s.setOpcode w).dt = s.dt := rfl
@[simp] theorem State.setOpcode_st (w : Word) : (s.setOpcode w).st = s.st := rfl
@[simp] theorem State.setOpcode_fb (w : Word) : (s.setOpcode w).fb = s.fb := rfl
@[simp] theorem State.setOpcode_key (w : Word) : (s.setOpcode w).key = s.key := rfl
@[simp] theorem State.setOpcode_opcode (w : Word) : (s.setOpcode w).opcode = w := rfl
@[simp] theorem State.setOpcode_err (w : Word) : (s.setOpcode w).err = s.err := rfl
@[simp] theorem State.setOpcode_soundEdge (w : Word) : (s.setOpcode w).soundEdge = s.soundEdge := rfl
@[simp] theorem State.setOpcode_wentWrong (w : Word) : (s.setOpcode w).wentWrong = s.wentWrong := rfl
@[simp] theorem State.setOpcode_rnd (w : Word) : (s.setOpcode w).rnd = s.rnd := rfl
@[simp] theorem State.setOpcode_rndDraws (w : Word) : (s.setOpcode w).rndDraws = s.rndDraws := rfl
@[simp] theorem State.setOpcode_memRead (w : Word) (c : Nat) : (s.setOpcode w).memRead c = s.memRead c := rfl
@[simp] theorem State.setOpcode_getV (w : Word) (r : Reg) : (s.setOpcode w).getV r = s.getV r := rfl
@[simp] theorem State.setOpcode_stackRead (w : Word) (j : Fin 16) : (s.setOpcode w).stackRead j = s.stackRead j := rfl
@[simp] theorem State.setOpcode_getCell (w : Word) (p : Fin 64) (q : Fin 32) : (s.setOpcode w).getCell p q = s.getCell p q := rfl
@[simp] theorem State.setOpcode_pressed (w : Word) (j : Fin 16) : (s.setOpcode w).pressed j = s.pressed j := rfl

/-! ### setErr -/

@[simp] theorem State.setErr_mem (e : Err) : (s.setErr e).mem = s.mem := rfl
@[simp] theorem State.setErr_v (e : Err) : (s.setErr e).v = s.v := rfl
@[simp] theorem State.setErr_i (e : Err) : (s.setErr e).i = s.i := rfl
@[simp] theorem State.setErr_pc (e : Err) : (s.setErr e).pc = s.pc := rfl
@[simp] theorem State.setErr_sp (e : Err) : (s.setErr e).sp = s.sp := rfl
@[simp] theorem State.setErr_stack (e : Err) : (s.setErr e).stack = s.stack := rfl
@[simp] theorem State.setErr_dt (e : Err) : (s.setErr e).dt = s.dt := rfl
@[simp] theorem State.setErr_st (e : Err) : (s.setErr e).st = s.st := rfl
@[simp] theorem State.setErr_fb (e : Err) : (s.setErr e).fb = s.fb := rfl
@[simp] theorem State.setErr_key (e : Err) : (s.setErr e).key = s.key := rfl
@[simp] theorem State.setErr_opcode (e : Err) : (s.setErr e).opcode = s.opcode := rfl
@[simp] theorem State.setErr_err (e : Err) : (s.setErr e).err = e := rfl
@[simp] theorem State.setErr_soundEdge (e : Err) : (s.setErr e).soundEdge = s.soundEdge := rfl
@[simp] theorem State.setErr_wentWrong (e : Err) : (s.setErr e).wentWrong = s.wentWrong := rfl
@[simp] theorem State.setErr_rnd (e : Err) : (s.setErr e).rnd = s.rnd := rfl
@[simp] theorem State.setErr_rndDraws (e : Err) : (s.setErr e).rndDraws = s.rndDraws := rfl
@[simp] theorem State.setErr_memRead (e : Err) (c : Nat) : (s.setErr e).memRead c = s.memRead c := rfl
@[simp] theorem State.setErr_getV (e : Err) (r : Reg) : (s.setErr e).getV r = s.getV r := rfl
@[simp] theorem State.setErr_stackRead (e : Err) (j : Fin 16) : (s.setErr e).stackRead j = s.stackRead j := rfl
@[simp] theorem State.setErr_getCell (e : Err) (p : Fin 64) (q : Fin 32) : (s.setErr e).getCell p q = s.getCell p q := rfl
@[simp] theorem State.setErr_pressed (e : Err) (j : Fin 16) : (s.setErr e).pressed j = s.pressed j := rfl

/-! ### raise -/

@[simp] theorem State.raise_mem (e : Err) : (s.raise e).mem = s.mem := rfl
@[simp] theorem State.raise_v (e : Err) : (s.raise e).v = s.v := rfl
@[simp] theorem State.raise_i (e : Err) : (s.raise e).i = s.i := rfl
@[simp] theorem State.raise_pc (e : Err) : (s.raise e).pc = s.pc := rfl
@[simp] theorem State.raise_sp (e : Err) : (s.raise e).sp = s.sp := rfl
@[simp] theorem State.raise_stack (e : Err) : (s.raise e).stack = s.stack := rfl
@[simp] theorem State.raise_dt (e : Err) : (s.raise e).dt = s.dt := rfl
@[simp] theorem State.raise_st (e : Err) : (s.raise e).st = s.st := rfl
@[simp] theorem State.raise_fb (e : Err) : (s.raise e).fb = s.fb := rfl
@[simp] theorem State.raise_key (e : Err) : (s.raise e).key = s.key := rfl
@[simp] theorem State.raise_opcode (e : Err) : (s.raise e).opcode = s.opcode := rfl
@[simp] theorem State.raise_err (e : Err) : (s.raise e).err = e := rfl
@[simp] theorem State.raise_soundEdge (e : Err) : (s.raise e).soundEdge = s.soundEdge := rfl
@[simp] theorem State.raise_wentWrong (e : Err) : (s.raise e).wentWrong = true := rfl
@[simp] theorem State.raise_rnd (e : Err) : (s.raise e).rnd = s.rnd := rfl
@[simp] theorem State.raise_rndDraws (e : Err) : (s.raise e).rndDraws = s.rndDraws := rfl
@[simp] theorem State.raise_memRead (e : Err) (c : Nat) : (s.raise e).memRead c = s.memRead c := rfl
@[simp] theorem State.raise_getV (e : Err) (r : Reg) : (s.raise e).getV r = s.getV r := rfl
@[simp] theorem State.raise_stackRead (e : Err) (j : Fin 16) : (s.raise e).stackRead j = s.stackRead j := rfl
@[simp] theorem State.raise_getCell (e : Err) (p : Fin 64) (q : Fin 32) : (s.raise e).getCell p q = s.getCell p q := rfl
@[simp] theorem State.raise_pressed (e : Err) (j : Fin 16) : (s.raise e).pressed j = s.pressed j := rfl

/-! ### tick -/

@[simp] theorem State.tick_mem : s.tick.mem = s.mem := rfl
@[simp] theorem State.tick_v : s.tick.v = s.v := rfl
@[simp] theorem State.tick_i : s.tick.i = s.i := rfl
@[simp] theorem State.tick_pc : s.tick.pc = s.pc := rfl
@[simp] theorem State.tick_sp : s.tick.sp = s.sp := rfl
@[simp] theorem State.tick_stack : s.tick.stack = s.stack := rfl
@[simp] theorem State.tick_dt : s.tick.dt = countDown s.dt := rfl
@[simp] theorem State.tick_st : s.tick.st = countDown s.st := rfl
@[simp] theorem State.tick_fb : s.tick.fb = s.fb := rfl
@[simp] theorem State.tick_key : s.tick.key = s.key := rfl
@[simp] theorem State.tick_opcode : s.tick.opcode = s.opcode := rfl
@[simp] theorem State.tick_err : s.tick.err = s.err := rfl
@[simp] theorem State.tick_soundEdge : s.tick.soundEdge = decide (s.st = 1) := rfl
@[simp] theorem State.tick_wentWrong : s.tick.wentWrong = s.wentWrong := rfl
@[simp] theorem State.tick_rnd : s.tick.rnd = s.rnd := rfl
@[simp] theorem State.tick_rndDraws : s.tick.rndDraws = s.rndDraws := rfl
@[simp] theorem State.tick_memRead (c : Nat) : s.tick.memRead c = s.memRead c := rfl
@[simp] theorem State.tick_getV (r : Reg) : s.tick.getV r = s.getV r := rfl
@[simp] theorem State.tick_stackRead (j : Fin 16) : s.tick.stackRead j = s.stackRead j := rfl
@[simp] theorem State.tick_getCell (p : Fin 64) (q : Fin 32) : s.tick.getCell p q = s.getCell p q := rfl
@[simp] theorem State.tick_pressed (j : Fin 16) : s.tick.pressed j = s.pressed j := rfl

end Sys2Proof.Machine
end

