-- ==== Sys2Proof/Laws/Memory.lean ====
section
/-! SUPPORT. MEM: a read after a write, writes to other addresses, and the canonical form, which every write keeps
(20_memory.md R45, R46, R50). -/

namespace Sys2Proof.Machine

/-! ### The list -/

theorem Memory.read_erase (m : Memory) (a c : Nat) :
    Memory.read (Memory.erase m a) c = if c = a then Memory.unlisted a else Memory.read m c := by
  induction m with
  | nil => by_cases h : c = a <;> simp [Memory.erase, Memory.read, h]
  | cons e rest ih =>
    obtain ⟨k, b⟩ := e
    by_cases hk : k = a <;> by_cases hc : c = a <;> simp_all [Memory.erase, Memory.read]
    intro h
    exact absurd h.symm hc

theorem Memory.read_place_same (m : Memory) (a : Nat) (b : Byte) (h : Memory.read m a = Memory.unlisted a)
    (hm : ∀ e ∈ m, e.1 ≠ a) : Memory.read (Memory.place m a b) a = b := by
  induction m with
  | nil => simp [Memory.place, Memory.read]
  | cons e rest ih =>
    obtain ⟨k, c⟩ := e
    have hk : k ≠ a := hm (k, c) (by simp)
    by_cases hlt : a < k
    · simp [Memory.place, Memory.read, hlt]
    · have hr : Memory.read rest a = Memory.unlisted a := by simpa [Memory.read, hk] using h
      simpa [Memory.place, Memory.read, hlt, hk] using ih hr (fun e he => hm e (by simp [he]))

theorem Memory.read_place_ne (m : Memory) (a c : Nat) (b : Byte) (h : c ≠ a) :
    Memory.read (Memory.place m a b) c = Memory.read m c := by
  have ha : a ≠ c := fun e => h e.symm
  induction m with
  | nil => simp [Memory.place, Memory.read, ha]
  | cons e rest ih =>
    obtain ⟨k, d⟩ := e
    by_cases hlt : a < k
    · simp [Memory.place, Memory.read, hlt, ha]
    · simp [Memory.place, Memory.read, hlt, ih]

theorem Memory.erase_has_no_entry (m : Memory) (a : Nat) : ∀ e ∈ Memory.erase m a, e.1 ≠ a := by
  induction m with
  | nil => simp [Memory.erase]
  | cons e rest ih =>
    obtain ⟨k, b⟩ := e
    by_cases hk : k = a
    · simpa only [Memory.erase, hk, if_true] using ih
    · simp only [Memory.erase, hk, if_false, List.forall_mem_cons]
      exact ⟨hk, ih⟩

/-- A read after a write, in every memory, canonical or not. -/
theorem Memory.read_write (m : Memory) (a c : Nat) (b : Byte) :
    Memory.read (Memory.write m a b) c = if c = a then b else Memory.read m c := by
  unfold Memory.write
  split
  · rename_i hb
    rw [Memory.read_erase, hb]
  · by_cases hc : c = a
    · subst hc
      simp [Memory.read_place_same _ _ _ (by simp [Memory.read_erase]) (Memory.erase_has_no_entry m c)]
    · simp [Memory.read_place_ne _ _ _ _ hc, Memory.read_erase, hc]

/-! ### The canonical form -/

theorem Memory.wfFrom_cons (lo k : Nat) (b : Byte) (rest : Memory) :
    Memory.wfFrom lo ((k, b) :: rest) = true ↔
      lo ≤ k ∧ k < 4096 ∧ b ≠ Memory.unlisted k ∧ Memory.wfFrom (k + 1) rest = true := by
  simp [Memory.wfFrom, and_assoc]

theorem Memory.wfFrom_mono (m : Memory) {lo lo' : Nat} (h : lo ≤ lo') (hm : Memory.wfFrom lo' m = true) :
    Memory.wfFrom lo m = true := by
  cases m with
  | nil => rfl
  | cons e rest =>
    obtain ⟨k, b⟩ := e
    rw [Memory.wfFrom_cons] at hm ⊢
    exact ⟨by omega, hm.2⟩

theorem Memory.wfFrom_erase (m : Memory) (lo a : Nat) (hm : Memory.wfFrom lo m = true) :
    Memory.wfFrom lo (Memory.erase m a) = true := by
  induction m generalizing lo with
  | nil => rfl
  | cons e rest ih =>
    obtain ⟨k, b⟩ := e
    rw [Memory.wfFrom_cons] at hm
    by_cases hk : k = a
    · simpa [Memory.erase, hk] using Memory.wfFrom_mono _ (by omega) (ih (k + 1) hm.2.2.2)
    · simp only [Memory.erase, hk, if_false]
      rw [Memory.wfFrom_cons]
      exact ⟨hm.1, hm.2.1, hm.2.2.1, ih _ hm.2.2.2⟩

theorem Memory.wfFrom_place (m : Memory) (lo a : Nat) (b : Byte) (hm : Memory.wfFrom lo m = true)
    (hlo : lo ≤ a) (ha : a < 4096) (hb : b ≠ Memory.unlisted a) (hne : ∀ e ∈ m, e.1 ≠ a) :
    Memory.wfFrom lo (Memory.place m a b) = true := by
  induction m generalizing lo with
  | nil => simp [Memory.place, hlo, ha, hb, Memory.wfFrom]
  | cons e rest ih =>
    obtain ⟨k, c⟩ := e
    rw [Memory.wfFrom_cons] at hm
    have hk : k ≠ a := hne (k, c) (by simp)
    by_cases hlt : a < k
    · simp only [Memory.place, hlt, if_true]
      rw [Memory.wfFrom_cons, Memory.wfFrom_cons]
      exact ⟨hlo, ha, hb, by omega, hm.2⟩
    · simp only [Memory.place, hlt, if_false]
      rw [Memory.wfFrom_cons]
      exact ⟨hm.1, hm.2.1, hm.2.2.1, ih _ hm.2.2.2 (by omega) (fun e he => hne e (by simp [he]))⟩

/-- Every write keeps the canonical form. -/
theorem Memory.wf_write (m : Memory) (a : Nat) (b : Byte) (ha : a < 4096) (hm : Memory.wf m = true) :
    Memory.wf (Memory.write m a b) = true := by
  unfold Memory.wf Memory.write at *
  split
  · exact Memory.wfFrom_erase m 0 a hm
  · rename_i hb
    exact Memory.wfFrom_place _ 0 a b (Memory.wfFrom_erase m 0 a hm) (by omega) ha hb (Memory.erase_has_no_entry m a)

/-! ### The state's memory -/

theorem memIndex_lt (a : Nat) : memIndex a < 4096 := Nat.mod_lt _ (by decide)

/-- `MemWrite` then `MemRead` (R45, R46, R50). -/
theorem State.memRead_memWrite (s : State) (a c : Nat) (b : Byte) :
    (s.memWrite a b).memRead c = if c % 4096 = a % 4096 then b else s.memRead c := by
  simp [State.memRead, State.memWrite, Memory.read_write, memIndex]

theorem State.memWrite_keeps_wf (s : State) (a : Nat) (b : Byte) (h : Memory.wf s.mem = true) :
    Memory.wf (s.memWrite a b).mem = true := Memory.wf_write _ _ _ (memIndex_lt a) h

/-- The memory after RESET is canonical. -/
theorem Memory.wf_reset : Memory.wf State.reset.mem = true := rfl

end Sys2Proof.Machine
end

