-- ==== Sys2Proof/Laws/Ops.lean ====
section
/-! SUPPORT. What each shared operation does, said once: the read-after-write laws of every array, the frames of runs
and drawings, and the lemmas of stack, timers, keys and fetch. -/

namespace Sys2Proof.Machine

/-! ### Read after write -/

theorem State.getV_setV (s : State) (x r : Reg) (b : Byte) :
    (s.setV x b).getV r = if r = x then b else s.getV r := by
  simp only [State.getV, State.setV, Vector.getElem_set, Fin.ext_iff, eq_comm]

@[simp] theorem State.getV_setV_same (s : State) (x : Reg) (b : Byte) : (s.setV x b).getV x = b := by
  simp [State.getV_setV]

theorem State.stackRead_stackWrite (s : State) (k j : Fin 16) (w : Word) :
    (s.stackWrite k w).stackRead j = if j = k then w else s.stackRead j := by
  simp only [State.stackRead, State.stackWrite, Vector.getElem_set, Fin.ext_iff, eq_comm]

theorem State.getCell_setCell (s : State) (x p : Fin 64) (y q : Fin 32) (b : Bool) :
    (s.setCell x y b).getCell p q = if p = x ∧ q = y then b else s.getCell p q := by
  by_cases hy : y = q
  · subst hy
    by_cases hx : x = p
    · subst hx
      simp [State.getCell, State.setCell]
    · have h1 : x.val ≠ p.val := fun e => hx (Fin.ext e)
      have h2 : p ≠ x := fun e => hx e.symm
      simp [State.getCell, State.setCell, h1, h2]
  · have h1 : y.val ≠ q.val := fun e => hy (Fin.ext e)
    have h2 : q ≠ y := fun e => hy e.symm
    simp [State.getCell, State.setCell, h1, h2]

@[simp] theorem State.getCell_clearCells (s : State) (p : Fin 64) (q : Fin 32) : s.clearCells.getCell p q = false := by
  simp [State.getCell, State.clearCells, clearedFb]

theorem State.pressed_setKey (s : State) (k j : Fin 16) (b : Bool) :
    (s.setKey k b).pressed j = if j = k then b else s.pressed j := by
  simp only [State.pressed, State.setKey, Vector.getElem_set, Fin.ext_iff, eq_comm]

/-! ### The policies of 00_scope.md R5, at this hardware's values (log 26) -/

@[simp] theorem State.cleared_eq {α : Type} (zeroed unspecified : α) : State.cleared zeroed unspecified = zeroed := rfl

@[simp] theorem guardAccess_eq (base count : Nat) (o : Host.Outcome State Fault Refusal) :
    guardAccess base count o = o := rfl

@[simp] theorem guardKey_eq (a : Byte) (o : Host.Outcome State Fault Refusal) : guardKey a o = o := rfl

@[simp] theorem State.endCycle_eq (s : State) : s.endCycle = s.tick := rfl

/-! ### Stack (10_state.md R18) -/

theorem State.spSlot_val (s : State) (h : s.sp.val < 16) : s.spSlot.val = s.sp.val := by
  simp [State.spSlot, Fin.ofNat, Nat.mod_eq_of_lt h]

/-- A push with SP below 16 writes slot SP alone and counts SP up. -/
theorem State.push_spec (s : State) (w : Word) (h : s.sp.val < 16) :
    (s.push w).sp.val = s.sp.val + 1 ∧
    ∀ j : Fin 16, (s.push w).stackRead j = if j.val = s.sp.val then w else s.stackRead j := by
  refine ⟨?_, fun j => ?_⟩
  · simp [State.push, Fin.ofNat]; omega
  · simp [State.push, State.stackRead_stackWrite, Fin.ext_iff, State.spSlot_val s h]

/-- A push changes SP and STACK and nothing else. -/
theorem State.push_frame (s : State) (w : Word) : ∃ n k, s.push w = (s.stackWrite k w).setSp n := ⟨_, _, rfl⟩

/-- SP goes down by 1, and stays at 0. -/
theorem State.popSp_sp (s : State) : s.popSp.sp.val = s.sp.val - 1 := by
  unfold State.popSp
  split
  · simp [Fin.ofNat]; omega
  · omega

/-- A pop changes SP and nothing else. -/
theorem State.popSp_frame (s : State) : ∃ n, s.popSp = s.setSp n := by
  unfold State.popSp
  split
  · exact ⟨_, rfl⟩
  · exact ⟨s.sp, rfl⟩

/-! ### Timers (60_exceptions.md R180) -/

theorem countDown_toNat (t : Byte) : (countDown t).toNat = t.toNat - 1 := by
  unfold countDown
  split
  · have h1 : (1 : Byte) ≤ t := by simp [BitVec.le_def]; omega
    rw [BitVec.toNat_sub_of_le h1]; simp
  · omega

/-! ### Fetch (40_cycle.md R81) -/

theorem wordOfBytes_toNat (hi lo : Byte) : (wordOfBytes hi lo).toNat = hi.toNat * 256 + lo.toNat := by
  have h := lo.isLt
  simp only [wordOfBytes, BitVec.toNat_append]
  rw [Nat.shiftLeft_eq, Nat.mul_comm, ← Nat.two_pow_add_eq_or_of_lt h, Nat.mul_comm]

theorem wordOfBytes_split (w : Word) : wordOfBytes (highByte w) (lowByte w) = w := by
  apply BitVec.eq_of_getLsbD_eq
  intro j hj
  simp only [wordOfBytes, highByte, lowByte, BitVec.getLsbD_append, BitVec.getLsbD_extractLsb']
  by_cases h : j < 8
  · simp [h]
  · have h8 : j - 8 < 8 := by omega
    have e : 8 + (j - 8) = j := by omega
    simp [h, h8, e]

/-- The word placed at PC is the word the next fetch reads, wherever PC is. -/
theorem State.fetchWord_placeWord (s : State) (w : Word) : (s.placeWord w).fetchWord = w := by
  have hne : s.pc.toNat % 4096 ≠ (s.pc.toNat + 1) % 4096 := by omega
  simp only [State.fetchWord, State.placeWord, State.memWrite_pc, State.memRead_memWrite, hne, if_true, if_false]
  exact wordOfBytes_split w

@[simp] theorem State.beginCycle_opcode (s : State) : s.beginCycle.opcode = s.fetchWord := rfl
@[simp] theorem State.beginCycle_err (s : State) : s.beginCycle.err = .none := rfl

/-! ### Keys (46_keypad.md R153) -/

theorem keySlot_val (a : Byte) : (keySlot a).val = a.toNat % 16 := rfl
theorem keyOf_val (k : Nat) (h : k < 16) : (keyOf k).val = k := Nat.mod_eq_of_lt h

theorem State.firstPressedFrom_spec (s : State) (fuel k : Nat) (h : k + fuel = 16) :
    match s.firstPressedFrom k fuel with
    | some j => s.pressed j = true ∧ k ≤ j.val ∧ ∀ l : Fin 16, k ≤ l.val → l < j → s.pressed l = false
    | none => ∀ l : Fin 16, k ≤ l.val → s.pressed l = false := by
  induction fuel generalizing k with
  | zero =>
    intro l hl
    omega
  | succ fuel ih =>
    have hk : k < 16 := by omega
    have hv := keyOf_val k hk
    unfold State.firstPressedFrom
    by_cases hp : s.pressed (keyOf k) = true
    · simp only [hp, if_true]
      exact ⟨trivial, by omega, fun l h1 h2 => by have : l.val < _ := h2; omega⟩
    · have hrest := ih (k + 1) (by omega)
      have hkey : ∀ l : Fin 16, l.val = k → s.pressed l = false := by
        intro l hl
        have : l = keyOf k := Fin.ext (by omega)
        simpa [this] using hp
      simp only [hp]
      split <;> rename_i heq <;> simp only [Bool.false_eq_true, if_false] at heq <;> rw [heq] at hrest
      · refine ⟨hrest.1, by have := hrest.2.1; omega, fun l h1 h2 => ?_⟩
        by_cases hl : l.val = k
        · exact hkey l hl
        · exact hrest.2.2 l (by omega) h2
      · intro l hl
        by_cases hl' : l.val = k
        · exact hkey l hl'
        · exact hrest l (by omega)

/-- The scan finds the lowest pressed key. -/
theorem State.firstPressed_some (s : State) (j : Fin 16) (h : s.firstPressed = some j) :
    s.pressed j = true ∧ ∀ l, l < j → s.pressed l = false := by
  have hs := s.firstPressedFrom_spec 16 0 rfl
  rw [show s.firstPressedFrom 0 16 = some j from h] at hs
  exact ⟨hs.1, fun l hl => hs.2.2 l (by omega) hl⟩

/-- The scan finds nothing exactly when no key is pressed. -/
theorem State.firstPressed_none (s : State) : s.firstPressed = none ↔ ∀ l, s.pressed l = false := by
  have hs := s.firstPressedFrom_spec 16 0 rfl
  constructor
  · intro h
    rw [show s.firstPressedFrom 0 16 = none from h] at hs
    exact fun l => hs l (by omega)
  · intro h
    cases hf : s.firstPressedFrom 0 16 with
    | none => exact hf
    | some j =>
      rw [hf] at hs
      exact absurd (hs.1.symm.trans (h j)) (by decide)

/-! ### Runs of registers (45_index_memory.md R145, R146) -/

theorem regOf_val (n : Nat) (h : n < 16) : (regOf n).val = n := Nat.mod_eq_of_lt h

/-- Storing a run changes MEM and nothing else. -/
theorem State.storeRun_frame (n : Nat) (s : State) : ∃ m, State.storeRun n s = { s with mem := m } := by
  induction n with
  | zero => exact ⟨s.mem, rfl⟩
  | succ n ih =>
    obtain ⟨m, hm⟩ := ih
    exact ⟨_, by simp only [State.storeRun, hm]; rfl⟩

theorem State.storeRun_keeps_wf (n : Nat) (s : State) (h : Memory.wf s.mem = true) :
    Memory.wf (State.storeRun n s).mem = true := by
  induction n with
  | zero => exact h
  | succ n ih => exact State.memWrite_keeps_wf _ _ _ ih

/-- After storing V0 to V(n-1), the byte at I + j is V[j], and every address outside the run reads as before. -/
theorem State.storeRun_memRead (n : Nat) (hn : n ≤ 16) (s : State) :
    (∀ j, j < n → (State.storeRun n s).memRead (s.i.toNat + j) = s.getV (regOf j)) ∧
    ∀ a, (∀ j, j < n → a % 4096 ≠ (s.i.toNat + j) % 4096) → (State.storeRun n s).memRead a = s.memRead a := by
  induction n with
  | zero => exact ⟨fun j h => absurd h (by omega), fun a _ => rfl⟩
  | succ n ih =>
    obtain ⟨ih1, ih2⟩ := ih (by omega)
    obtain ⟨m, hm⟩ := State.storeRun_frame n s
    have hi : (State.storeRun n s).indexed n = s.i.toNat + n := by rw [hm]; rfl
    have hv : (State.storeRun n s).getV (regOf n) = s.getV (regOf n) := by rw [hm]; rfl
    refine ⟨fun j hj => ?_, fun a ha => ?_⟩
    · simp only [State.storeRun, State.memRead_memWrite, hi, hv]
      by_cases hjn : j = n
      · simp [hjn]
      · have : (s.i.toNat + j) % 4096 ≠ (s.i.toNat + n) % 4096 := by omega
        simp only [this, if_false]
        exact ih1 j (by omega)
    · simp only [State.storeRun, State.memRead_memWrite, hi, ha n (by omega), if_false]
      exact ih2 a (fun j hj => ha j (by omega))

/-- Loading a run changes V and nothing else. -/
theorem State.loadRun_frame (n : Nat) (s : State) : ∃ v, State.loadRun n s = { s with v := v } := by
  induction n with
  | zero => exact ⟨s.v, rfl⟩
  | succ n ih =>
    obtain ⟨v, hv⟩ := ih
    exact ⟨_, by simp only [State.loadRun, hv]; rfl⟩

/-- After loading V0 to V(n-1), V[j] is the byte at I + j, and the registers from n on are unchanged. -/
theorem State.loadRun_getV (n : Nat) (hn : n ≤ 16) (s : State) (r : Reg) :
    (State.loadRun n s).getV r = if r.val < n then s.memRead (s.i.toNat + r.val) else s.getV r := by
  induction n with
  | zero => simp [State.loadRun]
  | succ n ih =>
    obtain ⟨v, hv⟩ := State.loadRun_frame n s
    have hm : (State.loadRun n s).memRead ((State.loadRun n s).indexed n) = s.memRead (s.i.toNat + n) := by
      rw [hv]; rfl
    simp only [State.loadRun, State.getV_setV, hm, ih (by omega), Fin.ext_iff, regOf_val n (by omega)]
    by_cases h1 : r.val = n
    · simp [h1]
    · have h2 : r.val < n + 1 ↔ r.val < n := by omega
      simp [h1, h2]

/-! ### Drawing (41_display.md R92) -/

theorem pixelX_val (x0 : Byte) (col : Nat) : (pixelX x0 col).val = (x0.toNat + col) % 64 := rfl
theorem pixelY_val (y0 : Byte) (row : Nat) : (pixelY y0 row).val = (y0.toNat + row) % 32 := rfl

/-- Drawing a pixel changes V and FB and nothing else. -/
theorem State.drawPixel_frame (s : State) (x : Fin 64) (y : Fin 32) :
    ∃ v fb, s.drawPixel x y = { s with v := v, fb := fb } := by
  unfold State.drawPixel
  split
  · exact ⟨_, _, rfl⟩
  · exact ⟨s.v, _, rfl⟩

/-- Drawing a pixel inverts its cell, records a collision in VF and touches nothing else of FB and V. -/
theorem State.drawPixel_spec (s : State) (x : Fin 64) (y : Fin 32) :
    (∀ p q, (s.drawPixel x y).getCell p q = if p = x ∧ q = y then !s.getCell p q else s.getCell p q) ∧
    ∀ r, (s.drawPixel x y).getV r = if r = Reg.F ∧ s.getCell x y = true then 1 else s.getV r := by
  refine ⟨fun p q => ?_, fun r => ?_⟩
  · unfold State.drawPixel
    by_cases hc : p = x ∧ q = y
    · obtain ⟨rfl, rfl⟩ := hc
      split <;> simp [State.getCell_setCell]
    · split <;> simp [State.getCell_setCell, hc]
  · unfold State.drawPixel
    split <;> rename_i h <;> simp [State.getV_setV, h]

theorem State.drawCols_frame (b x0 : Byte) (y : Fin 32) (n : Nat) (s : State) :
    ∃ v fb, State.drawCols b x0 y n s = { s with v := v, fb := fb } := by
  induction n with
  | zero => exact ⟨s.v, s.fb, rfl⟩
  | succ n ih =>
    obtain ⟨v, fb, h⟩ := ih
    simp only [State.drawCols]
    split
    · obtain ⟨v', fb', h'⟩ := State.drawPixel_frame (State.drawCols b x0 y n s) (pixelX x0 n) y
      exact ⟨v', fb', by rw [h', h]⟩
    · exact ⟨v, fb, h⟩

/-- Drawing rows changes V and FB and nothing else: MEM and I stay (45_index_memory.md R147). -/
theorem State.drawRows_frame (x0 y0 : Byte) (n : Nat) (s : State) :
    ∃ v fb, State.drawRows x0 y0 n s = { s with v := v, fb := fb } := by
  induction n with
  | zero => exact ⟨s.v, s.fb, rfl⟩
  | succ n ih =>
    obtain ⟨v, fb, h⟩ := ih
    simp only [State.drawRows]
    obtain ⟨v', fb', h'⟩ := State.drawCols_frame ((State.drawRows x0 y0 n s).memRead ((State.drawRows x0 y0 n s).indexed n))
      x0 (pixelY y0 n) 8 (State.drawRows x0 y0 n s)
    exact ⟨v', fb', by rw [h', h]⟩

end Sys2Proof.Machine
end

