-- ==== Sys2Proof/Laws/Draw.lean ====
section
/-! SUPPORT. What drawing a sprite does to FB and VF, cell by cell (41_display.md R92): the pixels of one sprite are
pairwise distinct, so each covered cell is inverted once and a collision is a covered cell that was set before. -/

namespace Sys2Proof.Machine

theorem pixelX_inj (x0 : Byte) {c d : Nat} (hc : c < 64) (hd : d < 64) (h : pixelX x0 c = pixelX x0 d) : c = d := by
  have h' := congrArg Fin.val h
  rw [pixelX_val, pixelX_val] at h'
  omega

theorem pixelY_inj (y0 : Byte) {c d : Nat} (hc : c < 32) (hd : d < 32) (h : pixelY y0 c = pixelY y0 d) : c = d := by
  have h' := congrArg Fin.val h
  rw [pixelY_val, pixelY_val] at h'
  omega

/-- A drawing from `s` to `t` whose set pixels are `covers`: every covered cell is inverted and no other is, VF becomes
1 if a covered cell was set and keeps its value otherwise, and no other register changes. -/
structure Draws (covers : Fin 64 → Fin 32 → Prop) (s t : State) : Prop where
  inverted : ∀ p q, covers p q → t.getCell p q = !s.getCell p q
  kept : ∀ p q, ¬ covers p q → t.getCell p q = s.getCell p q
  hit : (∃ p q, covers p q ∧ s.getCell p q = true) → t.getV Reg.F = 1
  miss : (¬ ∃ p q, covers p q ∧ s.getCell p q = true) → t.getV Reg.F = s.getV Reg.F
  others : ∀ r, r ≠ Reg.F → t.getV r = s.getV r

theorem Draws.nothing {covers : Fin 64 → Fin 32 → Prop} (h : ∀ p q, ¬ covers p q) (s : State) : Draws covers s s where
  inverted := fun p q hc => absurd hc (h p q)
  kept := fun _ _ _ => rfl
  hit := fun ⟨p, q, hc, _⟩ => absurd hc (h p q)
  miss := fun _ => rfl
  others := fun _ _ => rfl

/-- Two drawings with disjoint pixels are one drawing of them all. -/
theorem Draws.trans {c d e : Fin 64 → Fin 32 → Prop} {s t u : State} (h1 : Draws c s t) (h2 : Draws d t u)
    (hdisj : ∀ p q, d p q → ¬ c p q) (he : ∀ p q, e p q ↔ c p q ∨ d p q) : Draws e s u where
  inverted := by
    intro p q h
    rcases (he p q).1 h with hc | hd
    · rw [h2.kept p q (fun hd => hdisj p q hd hc), h1.inverted p q hc]
    · rw [h2.inverted p q hd, h1.kept p q (hdisj p q hd)]
  kept := by
    intro p q h
    rw [h2.kept p q (fun hd => h ((he p q).2 (.inr hd))), h1.kept p q (fun hc => h ((he p q).2 (.inl hc)))]
  hit := by
    rintro ⟨p, q, h, hs⟩
    by_cases hd : ∃ p q, d p q ∧ t.getCell p q = true
    · exact h2.hit hd
    · rw [h2.miss hd]
      rcases (he p q).1 h with hc | hd'
      · exact h1.hit ⟨p, q, hc, hs⟩
      · exact absurd ⟨p, q, hd', by rw [h1.kept p q (hdisj p q hd'), hs]⟩ hd
  miss := by
    intro h
    rw [h2.miss, h1.miss]
    · rintro ⟨p, q, hc, hs⟩
      exact h ⟨p, q, (he p q).2 (.inl hc), hs⟩
    · rintro ⟨p, q, hd, hs⟩
      rw [h1.kept p q (hdisj p q hd)] at hs
      exact h ⟨p, q, (he p q).2 (.inr hd), hs⟩
  others := fun r hr => (h2.others r hr).trans (h1.others r hr)

theorem drawPixel_draws (s : State) (x : Fin 64) (y : Fin 32) :
    Draws (fun p q => p = x ∧ q = y) s (s.drawPixel x y) := by
  obtain ⟨hc, hv⟩ := State.drawPixel_spec s x y
  refine ⟨fun p q h => by rw [hc, if_pos h], fun p q h => by rw [hc, if_neg h], ?_, ?_, fun r hr => by simp [hv, hr]⟩
  · rintro ⟨p, q, ⟨rfl, rfl⟩, hs⟩
    simp [hv, hs]
  · intro h
    have : ¬ s.getCell x y = true := fun hs => h ⟨x, y, ⟨rfl, rfl⟩, hs⟩
    simp [hv, this]

/-- The columns of one sprite row below `n` that have a set bit on (p, q). -/
def colsCover (b x0 : Byte) (y : Fin 32) (n : Nat) (p : Fin 64) (q : Fin 32) : Prop :=
  ∃ col, col < n ∧ spriteBit b col = true ∧ p = pixelX x0 col ∧ q = y

theorem drawCols_draws (b x0 : Byte) (y : Fin 32) (n : Nat) (hn : n ≤ 64) (s : State) :
    Draws (colsCover b x0 y n) s (State.drawCols b x0 y n s) := by
  induction n with
  | zero => exact Draws.nothing (fun p q ⟨col, h, _⟩ => absurd h (by omega)) s
  | succ n ih =>
    simp only [State.drawCols]
    split
    · rename_i hb
      refine (ih (by omega)).trans (drawPixel_draws _ (pixelX x0 n) y) ?_ ?_
      · rintro p q ⟨rfl, rfl⟩ ⟨col, hlt, -, hp, -⟩
        have := pixelX_inj x0 (by omega) (by omega) hp
        omega
      · intro p q
        constructor
        · rintro ⟨col, hlt, hc, hp, hq⟩
          by_cases h : col = n
          · subst h; exact .inr ⟨hp, hq⟩
          · exact .inl ⟨col, by omega, hc, hp, hq⟩
        · rintro (⟨col, hlt, h⟩ | ⟨hp, hq⟩)
          · exact ⟨col, by omega, h⟩
          · exact ⟨n, by omega, hb, hp, hq⟩
    · rename_i hb
      have he : colsCover b x0 y (n + 1) = colsCover b x0 y n := by
        funext p q
        apply propext
        constructor
        · rintro ⟨col, hlt, hc, h⟩
          have : col ≠ n := fun e => hb (e ▸ hc)
          exact ⟨col, by omega, hc, h⟩
        · rintro ⟨col, hlt, h⟩
          exact ⟨col, by omega, h⟩
      rw [he]
      exact ih (by omega)

/-- A sprite of at most 32 rows draws exactly the cells it covers (R92, "The cells one DXYN touches are pairwise
distinct"). -/
theorem drawRows_draws (x0 y0 : Byte) (n : Nat) (hn : n ≤ 32) (s : State) :
    Draws (s.spriteCovers x0 y0 n) s (State.drawRows x0 y0 n s) := by
  induction n with
  | zero => exact Draws.nothing (fun p q ⟨row, h, _⟩ => absurd h (by omega)) s
  | succ n ih =>
    obtain ⟨v, fb, hfr⟩ := State.drawRows_frame x0 y0 n s
    have hm : (State.drawRows x0 y0 n s).memRead ((State.drawRows x0 y0 n s).indexed n) = s.memRead (s.indexed n) := by
      rw [hfr]; rfl
    simp only [State.drawRows, hm]
    refine (ih (by omega)).trans (drawCols_draws _ x0 (pixelY y0 n) 8 (by omega) _) ?_ ?_
    · rintro p q ⟨col, -, -, -, hq⟩ ⟨row, hlt, col', -, -, -, hq'⟩
      have := pixelY_inj y0 (by omega) (by omega) (hq ▸ hq')
      omega
    · intro p q
      constructor
      · rintro ⟨row, hlt, col, h⟩
        by_cases hr : row = n
        · subst hr; exact .inr ⟨col, h⟩
        · exact .inl ⟨row, by omega, col, h⟩
      · rintro (⟨row, hlt, h⟩ | ⟨col, h⟩)
        · exact ⟨row, by omega, h⟩
        · exact ⟨n, by omega, col, h⟩

end Sys2Proof.Machine
end

