-- ==== Sys2Proof/Laws/Exec.lean ====
section
/-! SUPPORT. The executor phase answers a next state for every instruction in every state (40_cycle.md R86, 60_exceptions.md
R170), and what a cycle adds around it. -/

namespace Sys2Proof.Machine

/-- No instruction stops the machine. -/
theorem exec_answers_next (i : Instr) (s : State) : ∃ t, exec i s = .next t := by
  cases i
  case call nnn =>
    simp only [exec, execCall]
    split
    · exact ⟨_, rfl⟩
    · exact ⟨_, rfl⟩
  case ldVxK x =>
    simp only [exec, execLdVxK]
    split
    · exact ⟨_, rfl⟩
    · exact ⟨_, rfl⟩
  all_goals exact ⟨_, rfl⟩

@[simp] theorem finishCycle_next (s : State) : finishCycle (.next s) = .next s.tick := rfl

end Sys2Proof.Machine
end

