-- ==== Sys2Proof/Laws/Frame.lean ====
section
/-! SUPPORT. The frame `OnlyChanges` as a relation, what a LOAD's stores do, and how a run of cycles unfolds. -/

namespace Sys2Proof.Machine

/-! ### Frames -/

theorem AgreeOn.trans {part : Item} {s t u : State} (h1 : AgreeOn part s t) (h2 : AgreeOn part t u) :
    AgreeOn part s u := by
  cases part <;> simp only [AgreeOn] at *
  case mem => exact fun a => (h2 a).trans (h1 a)
  case v => exact fun r => (h2 r).trans (h1 r)
  case stack => exact fun k => (h2 k).trans (h1 k)
  case fb => exact fun x y => (h2 x y).trans (h1 x y)
  case key => exact fun k => (h2 k).trans (h1 k)
  all_goals exact h2.trans h1

theorem OnlyChanges.trans {parts : List Item} {s t u : State} (h1 : OnlyChanges parts s t) (h2 : OnlyChanges parts t u) :
    OnlyChanges parts s u := fun part hp => (h1 part hp).trans (h2 part hp)

theorem OnlyChanges.mono {parts more : List Item} {s t : State} (h : OnlyChanges parts s t)
    (hsub : ∀ part, part ∈ parts → part ∈ more) : OnlyChanges more s t :=
  fun part hp => h part fun hin => hp (hsub part hin)

/-- A part that a frame does not list is kept. -/
theorem OnlyChanges.keeps {parts : List Item} {s t : State} (h : OnlyChanges parts s t) (part : Item)
    (hp : part ∉ parts := by decide) : AgreeOn part s t := h part hp

/-- The fetched word depends on MEM and PC alone. -/
theorem fetchWord_eq_of_agree {s t : State} (hmem : AgreeOn .mem s t) (hpc : t.pc = s.pc) :
    t.fetchWord = s.fetchWord := by
  simp only [AgreeOn] at hmem
  simp only [State.fetchWord, hpc, hmem]

/-! ### LOAD's stores -/

/-- Storing an image changes MEM and nothing else. -/
theorem State.storeImage_frame (image : List Byte) (base : Nat) (s : State) :
    ∃ m, State.storeImage base image s = { s with mem := m } := by
  induction image generalizing base s with
  | nil => exact ⟨s.mem, rfl⟩
  | cons b rest ih =>
    obtain ⟨m, h⟩ := ih (base + 1) (s.memWrite base b)
    exact ⟨m, by rw [State.storeImage, h]; rfl⟩

theorem State.storeImage_keeps_wf (image : List Byte) (base : Nat) (s : State) (h : Memory.wf s.mem = true) :
    Memory.wf (State.storeImage base image s).mem = true := by
  induction image generalizing base s with
  | nil => exact h
  | cons b rest ih => exact ih _ _ (State.memWrite_keeps_wf _ _ _ h)

/-- Byte j of the image is read back at base + j, and every address outside the image reads as before. -/
theorem State.storeImage_memRead (image : List Byte) (base : Nat) (s : State) (hfit : base + image.length ≤ 4096) :
    (∀ j b, image[j]? = some b → (State.storeImage base image s).memRead (base + j) = b) ∧
    (∀ a, a < 4096 → (a < base ∨ base + image.length ≤ a) →
      (State.storeImage base image s).memRead a = s.memRead a) := by
  induction image generalizing base s with
  | nil => exact ⟨by simp, fun _ _ _ => rfl⟩
  | cons b rest ih =>
    simp only [List.length_cons] at hfit
    obtain ⟨hin, hout⟩ := ih (base + 1) (s.memWrite base b) (by omega)
    refine ⟨fun j c hj => ?_, fun a ha hne => ?_⟩
    · cases j with
      | zero =>
        simp only [List.getElem?_cons_zero, Option.some.injEq] at hj
        rw [State.storeImage]
        show State.memRead _ base = c
        rw [hout base (by omega) (by omega), State.memRead_memWrite]
        simp [hj]
      | succ j =>
        rw [List.getElem?_cons_succ] at hj
        rw [State.storeImage, ← hin j c hj]
        congr 1
        omega
    · rw [List.length_cons] at hne
      rw [State.storeImage, hout a ha (by omega), State.memRead_memWrite, if_neg]
      rw [Nat.mod_eq_of_lt ha, Nat.mod_eq_of_lt (by omega)]
      omega

/-! ### Cycles -/

theorem step_of_decode {s : State} {i : Instr} (h : decode s.fetchWord = .ok i) :
    step s = finishCycle (exec i s.beginCycle) := by
  simp only [step, State.beginCycle_opcode, h, guardAccess_eq]

theorem step_of_unknown {s : State} {why : UnknownWord} (h : decode s.fetchWord = .error why) :
    step s = .next s.beginCycle.unknownOpcode.tick := by
  simp only [step, State.beginCycle_opcode, h, guardAccess_eq, finishCycle_next]

/-- One more cycle in front of a run. -/
theorem run_succ_of_step {n : Nat} {s t : State} (h : step s = .next t) :
    Host.Core.run core (n + 1) s = Host.Core.run core n t := by
  simp only [Host.Core.run]
  rw [show core.step s = Host.Outcome.next t from h]

end Sys2Proof.Machine
end

