-- ==== Sys2Proof/Laws/PerInstr.lean ====
section
/-! SUPPORT. One lemma per instruction: its canonical word lies in the opcode map (30_encoding.md R64, R69). -/

namespace Sys2Proof.Laws.EncodesRow

/-- The canonical word of `i` has the fixed bits of a row of the opcode map. -/
def Statement (i : Instr) : Prop := ∃ row ∈ opcodeRows, encode i &&& row.mask = row.value

theorem of_row (k : Nat) (h : k < opcodeRows.length) (i : Instr)
    (he : encode i &&& opcodeRows[k].mask = opcodeRows[k].value) : Statement i :=
  ⟨opcodeRows[k], List.getElem_mem h, he⟩

theorem cls : Statement .cls := of_row 0 (by decide) _ rfl
theorem ret : Statement .ret := of_row 1 (by decide) _ rfl
theorem jp (nnn : Addr) : Statement (.jp nnn) := of_row 2 (by decide) _ (formatA_fixed 0x1 nnn)
theorem call (nnn : Addr) : Statement (.call nnn) := of_row 3 (by decide) _ (formatA_fixed 0x2 nnn)
theorem seImm (x : Reg) (nn : Byte) : Statement (.seImm x nn) := of_row 4 (by decide) _ (formatX_fixed 0x3 x nn)
theorem sneImm (x : Reg) (nn : Byte) : Statement (.sneImm x nn) := of_row 5 (by decide) _ (formatX_fixed 0x4 x nn)
theorem seReg (x : Reg) (y : Reg) : Statement (.seReg x y) := of_row 6 (by decide) _ (formatR_fixed 0x5 x y 0x0)
theorem ldImm (x : Reg) (nn : Byte) : Statement (.ldImm x nn) := of_row 7 (by decide) _ (formatX_fixed 0x6 x nn)
theorem addImm (x : Reg) (nn : Byte) : Statement (.addImm x nn) := of_row 8 (by decide) _ (formatX_fixed 0x7 x nn)
theorem ldReg (x : Reg) (y : Reg) : Statement (.ldReg x y) := of_row 9 (by decide) _ (formatR_fixed_low 0x8 x y 0x0)
theorem orReg (x : Reg) (y : Reg) : Statement (.orReg x y) := of_row 10 (by decide) _ (formatR_fixed_low 0x8 x y 0x1)
theorem andReg (x : Reg) (y : Reg) : Statement (.andReg x y) := of_row 11 (by decide) _ (formatR_fixed_low 0x8 x y 0x2)
theorem xorReg (x : Reg) (y : Reg) : Statement (.xorReg x y) := of_row 12 (by decide) _ (formatR_fixed_low 0x8 x y 0x3)
theorem addReg (x : Reg) (y : Reg) : Statement (.addReg x y) := of_row 13 (by decide) _ (formatR_fixed_low 0x8 x y 0x4)
theorem sub (x : Reg) (y : Reg) : Statement (.sub x y) := of_row 14 (by decide) _ (formatR_fixed_low 0x8 x y 0x5)
theorem shr (x : Reg) (y : Reg) : Statement (.shr x y) := of_row 15 (by decide) _ (formatR_fixed_low 0x8 x y 0x6)
theorem subn (x : Reg) (y : Reg) : Statement (.subn x y) := of_row 16 (by decide) _ (formatR_fixed_low 0x8 x y 0x7)
theorem shl (x : Reg) (y : Reg) : Statement (.shl x y) := of_row 17 (by decide) _ (formatR_fixed_low 0x8 x y 0xE)
theorem sneReg (x : Reg) (y : Reg) : Statement (.sneReg x y) := of_row 18 (by decide) _ (formatR_fixed 0x9 x y 0x0)
theorem ldI (nnn : Addr) : Statement (.ldI nnn) := of_row 19 (by decide) _ (formatA_fixed 0xA nnn)
theorem jpV0 (nnn : Addr) : Statement (.jpV0 nnn) := of_row 20 (by decide) _ (formatA_fixed 0xB nnn)
theorem rnd (x : Reg) (nn : Byte) : Statement (.rnd x nn) := of_row 21 (by decide) _ (formatX_fixed 0xC x nn)
theorem drw (x : Reg) (y : Reg) (n : Nat) : Statement (.drw x y n) := of_row 22 (by decide) _ (formatR_fixed 0xD x y (BitVec.ofNat 4 n))
theorem skp (x : Reg) : Statement (.skp x) := of_row 23 (by decide) _ (formatX_fixed_low 0xE x 0x9E)
theorem sknp (x : Reg) : Statement (.sknp x) := of_row 24 (by decide) _ (formatX_fixed_low 0xE x 0xA1)
theorem ldVxDt (x : Reg) : Statement (.ldVxDt x) := of_row 25 (by decide) _ (formatX_fixed_low 0xF x 0x07)
theorem ldVxK (x : Reg) : Statement (.ldVxK x) := of_row 26 (by decide) _ (formatX_fixed_low 0xF x 0x0A)
theorem ldDtVx (x : Reg) : Statement (.ldDtVx x) := of_row 27 (by decide) _ (formatX_fixed_low 0xF x 0x15)
theorem ldStVx (x : Reg) : Statement (.ldStVx x) := of_row 28 (by decide) _ (formatX_fixed_low 0xF x 0x18)
theorem addI (x : Reg) : Statement (.addI x) := of_row 29 (by decide) _ (formatX_fixed_low 0xF x 0x1E)
theorem ldF (x : Reg) : Statement (.ldF x) := of_row 30 (by decide) _ (formatX_fixed_low 0xF x 0x29)
theorem ldB (x : Reg) : Statement (.ldB x) := of_row 31 (by decide) _ (formatX_fixed_low 0xF x 0x33)
theorem stRegs (x : Reg) : Statement (.stRegs x) := of_row 32 (by decide) _ (formatX_fixed_low 0xF x 0x55)
theorem ldRegs (x : Reg) : Statement (.ldRegs x) := of_row 33 (by decide) _ (formatX_fixed_low 0xF x 0x65)

end Sys2Proof.Laws.EncodesRow
end

