-- ==== Sys2Proof/Tests/Slice0.lean ====
section
/-! SUPPORT. Tests: the well-formedness check, words written out from the spec's encodings, single cycles with the results
that 95_test_vectors.md gives, and a witness for the hypotheses of every statement that has hypotheses. The expected
values are the spec's (section and row named), not the model's. -/

namespace Sys2Proof.Tests
open Sys2Proof.Machine

/-! ### WellFormed: the one check, DXYN's row count (30_encoding.md R62) -/

theorem test_wellFormed_accepts_15_rows : Instr.wellFormed (.drw 0 0 15) = true := by decide
theorem test_wellFormed_refuses_16_rows : Instr.wellFormed (.drw 0 0 16) = false := by decide

/-! ### Decoding, word by word from the encodings of 30_encoding.md R64 (fields op | X | Y | N) -/

theorem test_word_cls : decode 0b0000_0000_1110_0000 = .ok .cls := rfl
theorem test_word_ret : decode 0b0000_0000_1110_1110 = .ok .ret := rfl
theorem test_word_jp : decode 0b0001_1010_1011_1100 = .ok (.jp 0xABC) := rfl
theorem test_word_call : decode 0b0010_1010_1011_1100 = .ok (.call 0xABC) := rfl
theorem test_word_seImm : decode 0b0011_0011_0010_1010 = .ok (.seImm 3 0x2A) := rfl
theorem test_word_sneImm : decode 0b0100_0011_0010_1010 = .ok (.sneImm 3 0x2A) := rfl
theorem test_word_seReg : decode 0b0101_0001_0010_0000 = .ok (.seReg 1 2) := rfl
theorem test_word_ldImm : decode 0b0110_1010_0010_1111 = .ok (.ldImm 0xA 0x2F) := rfl
theorem test_word_addImm : decode 0b0111_0000_0100_0100 = .ok (.addImm 0 0x44) := rfl
theorem test_word_ldReg : decode 0b1000_0001_0010_0000 = .ok (.ldReg 1 2) := rfl
theorem test_word_orReg : decode 0b1000_0001_0010_0001 = .ok (.orReg 1 2) := rfl
theorem test_word_andReg : decode 0b1000_0001_0010_0010 = .ok (.andReg 1 2) := rfl
theorem test_word_xorReg : decode 0b1000_0001_0010_0011 = .ok (.xorReg 1 2) := rfl
theorem test_word_addReg : decode 0b1000_0001_0010_0100 = .ok (.addReg 1 2) := rfl
theorem test_word_sub : decode 0b1000_0001_0010_0101 = .ok (.sub 1 2) := rfl
theorem test_word_shr : decode 0b1000_0001_0010_0110 = .ok (.shr 1 2) := rfl
theorem test_word_subn : decode 0b1000_0001_0010_0111 = .ok (.subn 1 2) := rfl
theorem test_word_shl : decode 0b1000_0001_0010_1110 = .ok (.shl 1 2) := rfl
theorem test_word_sneReg : decode 0b1001_1010_1011_0000 = .ok (.sneReg 0xA 0xB) := rfl
theorem test_word_ldI : decode 0b1010_0010_1111_0000 = .ok (.ldI 0x2F0) := rfl
theorem test_word_jpV0 : decode 0b1011_0011_0000_0000 = .ok (.jpV0 0x300) := rfl
theorem test_word_rnd : decode 0b1100_0011_0000_1111 = .ok (.rnd 3 0x0F) := rfl
theorem test_word_drw : decode 0b1101_1111_1110_0101 = .ok (.drw 0xF 0xE 5) := rfl
theorem test_word_skp : decode 0b1110_0001_1001_1110 = .ok (.skp 1) := rfl
theorem test_word_sknp : decode 0b1110_0001_1010_0001 = .ok (.sknp 1) := rfl
theorem test_word_ldVxDt : decode 0b1111_0001_0000_0111 = .ok (.ldVxDt 1) := rfl
theorem test_word_ldVxK : decode 0b1111_0001_0000_1010 = .ok (.ldVxK 1) := rfl
theorem test_word_ldDtVx : decode 0b1111_0001_0001_0101 = .ok (.ldDtVx 1) := rfl
theorem test_word_ldStVx : decode 0b1111_0001_0001_1000 = .ok (.ldStVx 1) := rfl
theorem test_word_addI : decode 0b1111_0001_0001_1110 = .ok (.addI 1) := rfl
theorem test_word_ldF : decode 0b1111_0001_0010_1001 = .ok (.ldF 1) := rfl
theorem test_word_ldB : decode 0b1111_0001_0011_0011 = .ok (.ldB 1) := rfl
theorem test_word_stRegs : decode 0b1111_0001_0101_0101 = .ok (.stRegs 1) := rfl
theorem test_word_ldRegs : decode 0b1111_0001_0110_0101 = .ok (.ldRegs 1) := rfl

/-- Section 2.1: aliases (decision D11). -/
theorem test_word_aliases : decode 0x05E0 = .ok .cls ∧ decode 0x5127 = .ok (.seReg 1 2) := ⟨rfl, rfl⟩

/-- Section 2.1: the unknown words. -/
theorem test_word_unknown : decode 0x0000 = .error .family0 ∧ decode 0x0123 = .error .family0 ∧
    decode 0x8128 = .error .family8 ∧ decode 0x812F = .error .family8 ∧ decode 0xE19F = .error .familyE ∧
    decode 0xE10E = .error .familyE ∧ decode 0xF175 = .error .familyF ∧ decode 0xFFFF = .error .familyF :=
  ⟨rfl, rfl, rfl, rfl, rfl, rfl, rfl, rfl⟩

/-- T10: the bytes D0 15 in memory are the word 0xD015. -/
theorem test_bytes_high_first : wordOfBytes 0xD0 0x15 = 0xD015 := by decide

/-! ### One cycle -/

/-- What `f` reads after one cycle that runs the word `w` from `s`. -/
def after {α : Type} (w : Nat) (s : State) (f : State → α) : Option α :=
  match step (s.withFetchWord 16 w) with
  | .next t => some (f t)
  | .fault _ => none
  | .refused _ => none

/-- The state after RESET. -/
def start : State := State.reset

/-- `start` with two registers set. -/
def with2 (x : Reg) (a : Byte) (y : Reg) (b : Byte) : State := (start.setV x a).setV y b

/-- V[x], VF and PC. -/
def regs (x : Reg) (t : State) : Byte × Byte × Word := (t.getV x, t.getV Reg.F, t.pc)

/-- Section 2.2 row 1: an unknown word with DT = 2. -/
theorem test_unknown_word : after 0x0000 (start.setDt 2) (fun t => (t.pc, t.opcode, t.dt, t.err)) =
    some (0x200, 0, 1, .unknownOpcode 0) := by decide

/-- Section 2.2 row 2: the tick of an error cycle raises the edge. -/
theorem test_unknown_word_edge : after 0xFFFF (start.setSt 1) (fun t => (t.st, t.soundEdge, t.err)) =
    some (0, true, .unknownOpcode 0xFFFF) := by decide

/-- Section 2.2 row 4: the fetch at 0xFFF wraps to the font byte 0xF0. -/
theorem test_fetch_wraps : ((start.setPc 0xFFF).memWrite 0xFFF 0x12).fetchWord = 0x12F0 := by decide

/-- Section 2.2 row 5: an odd PC runs. -/
theorem test_odd_pc : after 0x612A (start.setPc 0x201) (fun t => (t.getV 1, t.pc, t.err)) =
    some (0x2A, 0x203, .none) := by decide

/-- T10 and R22: OPCODE holds the fetched word after the cycle. -/
theorem test_opcode_latch : after 0xD015 start (fun t => t.opcode) = some 0xD015 := by decide

/-- Section 2.3 row 1. -/
theorem test_cls : after 0x00E0 ((start.setCell 8 0 true).setCell 63 31 true)
    (fun t => (t.fbCell 8, t.fbCell 2047, t.pc)) = some (false, false, 0x202) := by decide

/-- Section 2.3: X = F, the origin is read before VF is cleared (decision D8). -/
theorem test_drw_origin_vf : after 0xDF11 (((start.setV 15 5).setI 0x300).memWrite 0x300 0x80)
    (fun t => (t.fbCell 5, t.fbCell 0, t.getV 15, t.i)) = some (true, false, 0, 0x300) := by decide

/-- Section 2.3: bytes A0 and F0 at I = FFF and 000 over a set cell 0: bit 7 leftmost, address and collision. -/
theorem test_drw_collision : after 0xD012 (((start.setI 0xFFF).memWrite 0xFFF 0xA0).setCell 0 0 true)
    (fun t => (t.fbCell 0, t.fbCell 1, t.fbCell 2, t.fbCell 64, t.fbCell 68, t.getV 15)) =
    some (false, false, true, true, false, 1) := by decide

/-- Section 2.4: return from slot 0, and with SP = 0. -/
theorem test_ret : after 0x00EE (((start.setPc 0x300).setSp 1).stackWrite 0 0x200) (fun t => (t.pc, t.sp, t.stackRead 0)) =
    some (0x202, 0, 0x200) := by decide
theorem test_ret_empty : after 0x00EE ((start.setPc 0x300).stackWrite 0 0x456) (fun t => (t.pc, t.sp, t.err)) =
    some (0x458, 0, .none) := by decide

theorem test_jp : after 0x1201 start (fun t => t.pc) = some 0x201 := by decide

/-- Section 2.4: the last slot, and the overflow. -/
theorem test_call : after 0x2300 ((start.setPc 0x4A2).setSp 15) (fun t => (t.pc, t.sp, t.stackRead 15, t.err)) =
    some (0x300, 16, 0x4A2, .none) := by decide
theorem test_call_overflow : after 0x2300 (((start.setPc 0x4A2).setSp 16).setDt 5) (fun t => (t.pc, t.sp, t.err, t.dt)) =
    some (0x4A2, 16, .stackOverflow, 4) := by decide

theorem test_jpV0 : after 0xBFFF (start.setV 0 0xFF) (fun t => t.pc) = some 0x10FE := by decide
theorem test_jpV0_reads_v0 : after 0xB300 (start.setV 3 0x55) (fun t => t.pc) = some 0x300 := by decide

/-- Section 2.5. -/
theorem test_seImm : after 0x332A (start.setV 3 0x2A) (fun t => t.pc) = some 0x204 := by decide
theorem test_seImm_no : after 0x332B (start.setV 3 0x2A) (fun t => t.pc) = some 0x202 := by decide
theorem test_sneImm : after 0x432A (start.setV 3 0x2A) (fun t => t.pc) = some 0x202 := by decide
theorem test_sneImm_yes : after 0x432B (start.setV 3 0x2A) (fun t => t.pc) = some 0x204 := by decide
theorem test_seReg : after 0x5120 (with2 1 7 2 7) (fun t => t.pc) = some 0x204 := by decide
theorem test_seReg_no : after 0x5120 (with2 1 7 2 8) (fun t => t.pc) = some 0x202 := by decide
theorem test_sneReg : after 0x9120 (with2 1 7 2 8) (fun t => t.pc) = some 0x204 := by decide
theorem test_sneReg_no : after 0x9120 (with2 1 7 2 7) (fun t => t.pc) = some 0x202 := by decide

/-- Section 2.6, first table. -/
theorem test_ldImm : after 0x6A2F start (regs 0xA) = some (0x2F, 0, 0x202) := by decide
theorem test_addImm : after 0x7044 (start.setV 0 0x11) (regs 0) = some (0x55, 0, 0x202) := by decide
theorem test_addImm_wraps : after 0x7001 (with2 0 0xFF 15 1) (regs 0) = some (0, 1, 0x202) := by decide
theorem test_ldReg : after 0x8120 (start.setV 2 9) (regs 1) = some (9, 0, 0x202) := by decide
theorem test_orReg : after 0x8121 (with2 1 0xF0 2 0x0F) (regs 1) = some (0xFF, 0, 0x202) := by decide
theorem test_andReg : after 0x8122 (with2 1 0xF0 2 0x3C) (regs 1) = some (0x30, 0, 0x202) := by decide
theorem test_xorReg : after 0x8123 (with2 1 0xF0 2 0x3C) (regs 1) = some (0xCC, 0, 0x202) := by decide
theorem test_addReg : after 0x8124 (with2 1 0xF0 2 0x10) (regs 1) = some (0, 1, 0x202) := by decide
theorem test_sub : after 0x8125 (with2 1 5 2 7) (regs 1) = some (0xFE, 0, 0x202) := by decide
theorem test_shr : after 0x8126 (with2 1 1 2 0xAA) (regs 1) = some (0, 1, 0x202) := by decide
theorem test_subn : after 0x8127 (with2 1 5 2 7) (regs 1) = some (2, 1, 0x202) := by decide
theorem test_shl : after 0x812E (with2 1 0x7F 2 0) (regs 1) = some (0xFE, 0, 0x202) := by decide
theorem test_rnd : after 0xC30F (start.setRnd 0xB7) (regs 3) = some (7, 0, 0x202) := by decide

/-- Section 2.6, the aliased table (decision D9). -/
theorem test_addReg_y_vf : after 0x81F4 (with2 1 0xFF 15 2) (regs 1) = some (0, 1, 0x202) := by decide
theorem test_sub_x_vf : after 0x8F15 (with2 1 3 15 5) (regs 15) = some (0xFE, 0xFE, 0x202) := by decide
theorem test_shr_x_vf : after 0x8F06 (start.setV 15 3) (regs 15) = some (0, 0, 0x202) := by decide
theorem test_subn_x_vf : after 0x8F17 (with2 1 5 15 3) (regs 15) = some (4, 4, 0x202) := by decide
theorem test_shl_x_vf : after 0x8F0E (start.setV 15 0x81) (regs 15) = some (2, 2, 0x202) := by decide

/-- Section 2.7. -/
theorem test_ldI : after 0xAFFF start (fun t => (t.i, t.pc)) = some (0xFFF, 0x202) := by decide
theorem test_addI : after 0xF21E ((start.setI 0xF01).setV 2 0xFF) (fun t => (t.i, t.getV 15)) = some (0, 1) := by decide
theorem test_addI_vf : after 0xFF1E ((start.setI 0xF01).setV 15 0xFF) (fun t => (t.i, t.getV 15)) =
    some (0xF02, 1) := by decide
theorem test_ldF : after 0xF429 (start.setV 4 0xFF) (fun t => t.i) = some 0x4FB := by decide
theorem test_ldB : after 0xF733 ((start.setI 0xFFE).setV 7 123)
    (fun t => (t.memRead 0xFFE, t.memRead 0xFFF, t.memRead 0)) = some (1, 2, 3) := by decide
theorem test_stRegs : after 0xF155 (((with2 0 1 1 2).setV 2 3).setI 0x300)
    (fun t => (t.memRead 0x300, t.memRead 0x301, t.memRead 0x302, t.i)) = some (1, 2, 0, 0x300) := by decide
theorem test_ldRegs : after 0xF465 (start.setV 5 0x77)
    (fun t => (t.getV 0, t.getV 1, t.getV 3, t.getV 4, t.getV 5)) = some (0xF0, 0x90, 0x90, 0xF0, 0x77) := by decide

/-- Section 2.8. -/
theorem test_skp : after 0xE29E ((start.setV 2 0x15).setKey 5 true) (fun t => t.pc) = some 0x204 := by decide
theorem test_sknp : after 0xE2A1 ((start.setV 2 5).setKey 5 true) (fun t => t.pc) = some 0x202 := by decide
theorem test_ldVxK : after 0xF60A ((start.setKey 3 true).setKey 9 true) (fun t => (t.getV 6, t.pc)) =
    some (3, 0x202) := by decide
theorem test_ldVxK_waits : after 0xF60A ((start.setV 6 0x77).setDt 3) (fun t => (t.getV 6, t.pc, t.dt)) =
    some (0x77, 0x200, 2) := by decide

/-- Section 2.9. -/
theorem test_ldVxDt : after 0xF307 (start.setDt 0x10) (fun t => (t.getV 3, t.dt)) = some (0x10, 0x0F) := by decide
theorem test_ldDtVx : after 0xF315 (start.setV 3 0x3C) (fun t => t.dt) = some 0x3B := by decide
theorem test_ldStVx : after 0xF318 (start.setV 3 1) (fun t => (t.st, t.soundEdge)) = some (0, true) := by decide
theorem test_ldStVx_zero : after 0xF318 (start.setSt 7) (fun t => (t.st, t.soundEdge)) = some (0, false) := by decide
theorem test_tick_floor : after 0x6000 start (fun t => (t.dt, t.st, t.soundEdge)) = some (0, 0, false) := by decide

/-- Section 2.10: LOAD of 12 00. -/
theorem test_load : (hostLoad [0x12, 0x00] (start.setV 3 9)).toOption.map
    (fun t => (t.memRead 0x200, t.memRead 0x201, t.getV 3, t.memRead 0)) = some (0x12, 0, 0, 0xF0) := by decide

/-- R173: RESET and LOAD keep the fault bit. -/
theorem test_fault_bit_survives_the_host : (hostReset (start.raise .stackOverflow)).wentWrong = true ∧
    (hostLoad [0x12, 0x00] (start.raise .stackOverflow)).toOption.map (fun t => (t.wentWrong, t.err)) =
      some (true, .none) := by decide

/-- The table word of the host's question runs as the first instruction after reset. -/
theorem test_decodeTableWord : decodeTableWord 16 0xD015 = some (.drw 0 1 5) := by decide

/-- `State.programPc` (10_state.md R17) at its edges. -/
theorem test_programPc : (start.setPc 0xFFE).programPc = true ∧ (start.setPc 0x1FE).programPc = false ∧
    (start.setPc 0x201).programPc = false := by decide

/-! ### Witnesses: states and operands that meet the hypotheses of the statements -/

/-- `start` with the word `w` at PC. -/
def holding (w : Nat) : State := start.withFetchWord 16 w

/-- `holding w` with a full stack. -/
def holdingFull (w : Nat) : State := (holding w).setSp 16

/-- A two-row sprite at 0x300, origin (62, 31): it crosses both edges. -/
def sprite : State := (((with2 0 62 1 31).setI 0x300).memWrite 0x300 0xC0).memWrite 0x301 0x81

/-- The state after `sprite` is drawn once. -/
def drawn : State := (State.drawRows 62 31 2 (sprite.setV Reg.F 0)).advance

theorem witness_LoadPlacesImageAfterReset : (List.replicate 3584 (0x12 : Byte)).length ≤ 3584 ∧
    (List.replicate 3584 (0x12 : Byte))[3583]? = some 0x12 := by
  rw [List.length_replicate, List.getElem?_replicate]
  exact ⟨Nat.le_refl _, rfl⟩

/-- The addresses of the third clause at its edges: below the program area, and the last one behind a 2-byte image. -/
theorem witness_LoadPlacesImageAfterReset_rest :
    ((0x1FF : Nat) < 4096 ∧ 0x1FF < 0x200) ∧ ((0xFFF : Nat) < 4096 ∧ 0x200 + ([0x12, 0] : List Byte).length ≤ 0xFFF) := by
  decide

theorem witness_OversizedLoadChangesNothing : (List.replicate 3585 (0x12 : Byte)).length > 3584 := by
  rw [List.length_replicate]
  exact Nat.lt_succ_self _

theorem witness_KeySetWritesOneSlot : (14 : Fin 16) ≠ 15 := by decide

theorem witness_StepRunsTheDecodedInstruction : decode (holding 0x7044).fetchWord = .ok (.addImm 0 0x44) := rfl

theorem witness_UnknownWordIsReportedAndPcStays : decode (holding 0xFFFF).fetchWord = .error .familyF := rfl

/-- A cycle of each kind: a decoded word, and an unknown one with ST = 1, where the tick raises the edge. -/
theorem witness_EveryCycleEndsWithTheTick : decode (holding 0x7044).fetchWord = .ok (.addImm 0 0x44) ∧
    decode ((holding 0xFFFF).setSt 1).fetchWord = .error .familyF ∧ ((holding 0xFFFF).setSt 1).st.toNat = 1 :=
  ⟨rfl, rfl, rfl⟩

/-- The three clauses, with timer values 1 (the edge) and 0 (the floor). -/
theorem witness_LoadedTimerIsTickedInTheSameCycle :
    (decode (holding 0xF315).fetchWord = .ok (.ldDtVx 3) ∧ (holding 0xF315).getV 3 = 0) ∧
    (decode ((holding 0xF318).setV 3 1).fetchWord = .ok (.ldStVx 3) ∧ ((holding 0xF318).setV 3 1).getV 3 = 1) ∧
    (decode (holding 0xF307).fetchWord = .ok (.ldVxDt 3) ∧ (holding 0xF307).dt = 0) :=
  ⟨⟨rfl, rfl⟩, ⟨rfl, rfl⟩, ⟨rfl, rfl⟩⟩

/-- A word of a row, a word of no row, and no word of both of two rows. -/
theorem witness_DispatchIsTheOpcodeMap : (0x05E0 : Word) &&& 0xF0FF = 0x00E0 ∧
    (∀ row ∈ opcodeRows, (0x8128 : Word) &&& row.mask ≠ row.value) := by decide

theorem witness_DecodeOfEncodeIsTheInstruction : Instr.wellFormed (.drw 15 15 15) = true := by decide

/-- One word per clause: an ignored bit set in family 0, in 5 and in 9, and none to ignore elsewhere. -/
theorem witness_DecodedWordIsCanonicalUpToIgnoredBits :
    (decode 0x0FEE = .ok .ret ∧ topNibble 0x0FEE = 0x0) ∧ (decode 0x512F = .ok (.seReg 1 2) ∧ topNibble 0x512F = 0x5) ∧
    (decode 0x9ABF = .ok (.sneReg 0xA 0xB) ∧ topNibble 0x9ABF = 0x9) ∧
    (decode 0xFF65 = .ok (.ldRegs 15) ∧ topNibble 0xFF65 = 0xF) := ⟨⟨rfl, rfl⟩, ⟨rfl, rfl⟩, ⟨rfl, rfl⟩, ⟨rfl, rfl⟩⟩

/-- A covered cell that is set, at the wrapped corner, and one that is clear: the first two and the flag clauses. -/
theorem witness_DrwInvertsTheCoveredCells : Instr.wellFormed (.drw 0 1 2) = true ∧
    (sprite.setCell 5 0 true).spriteCovers (sprite.getV 0) (sprite.getV 1) 2 5 0 ∧
    (sprite.setCell 5 0 true).getCell 5 0 = true ∧
    sprite.spriteCovers (sprite.getV 0) (sprite.getV 1) 2 62 31 ∧ sprite.getCell 62 31 = false := by
  refine ⟨by decide, ⟨1, by decide, 7, by decide, ?_⟩, by decide, ⟨0, by decide, 0, by decide, ?_⟩, by decide⟩
  · decide
  · decide

/-- With N = 0 no cell is covered, so none that is covered is set. -/
theorem witness_DrwInvertsTheCoveredCells_no_rows : Instr.wellFormed (.drw 0 1 0) = true ∧
    ¬ sprite.spriteCovers (sprite.getV 0) (sprite.getV 1) 0 62 31 ∧
    ¬ ∃ p q, sprite.spriteCovers (sprite.getV 0) (sprite.getV 1) 0 p q ∧ sprite.getCell p q = true := by
  refine ⟨by decide, ?_, ?_⟩
  · rintro ⟨row, hrow, _⟩
    exact absurd hrow (Nat.not_lt_zero row)
  · rintro ⟨_, _, ⟨row, hrow, _⟩, _⟩
    exact absurd hrow (Nat.not_lt_zero row)

/-- The state after the first draw meets every premise on the second one. -/
theorem witness_SecondDrawRestoresTheFrameBuffer : Instr.wellFormed (.drw 0 1 2) = true ∧
    ∃ t u : State, exec (.drw 0 1 2) sprite = .next t ∧ u.getV 0 = sprite.getV 0 ∧ u.getV 1 = sprite.getV 1 ∧
      u.i = sprite.i ∧ AgreeOn .mem sprite u ∧ AgreeOn .fb t u :=
  ⟨by decide, drawn, drawn, rfl, rfl, rfl, rfl, fun _ => rfl, fun _ _ => rfl⟩

theorem witness_CallSavesItsOwnAddress : (start.setSp 15).sp.val < 16 ∧ start.sp.val < 16 := by decide

theorem witness_CallOnAFullStackOverflows : (holdingFull 0x2300).sp.val = 16 ∧
    decode (holdingFull 0x2300).fetchWord = .ok (.call 0x300) := ⟨rfl, rfl⟩

theorem witness_CallThenRetReturnsBehindTheCall : (start.setSp 15).sp.val < 16 ∧ start.sp.val < 16 := by decide

/-- FX29 on the last digit and the first, in the reset image. -/
theorem witness_LoadGlyphAddress : (start.setV 4 15).mem = State.reset.mem ∧ ((start.setV 4 15).getV 4).toNat < 16 ∧
    (start.getV 4).toNat < 16 := by decide

theorem witness_StoreRegisters : (15 : Reg) ≤ 15 ∧ (0 : Reg) ≤ 0 := by decide

theorem witness_LoadRegisters : (0 : Reg) ≤ 0 ∧ (0 : Reg) < 1 ∧ (15 : Reg) ≤ 15 := by decide

/-- Keys 15 and 0 as V[X] = FF and 0 select them, pressed and released. -/
theorem witness_SkipsOnAKey :
    (15 : Fin 16).val = ((start.setV 2 0xFF).getV 2).toNat % 16 ∧ (start.setKey 15 true).pressed 15 = true ∧
    (0 : Fin 16).val = (start.getV 2).toNat % 16 ∧ start.pressed 0 = false := by decide

theorem witness_KeyWaitTakesTheLowestPressedKey :
    ((start.setKey 3 true).setKey 9 true).pressed 3 = true ∧
    (∀ j, j < (3 : Fin 16) → ((start.setKey 3 true).setKey 9 true).pressed j = false) ∧
    (start.setKey 15 true).pressed 15 = true ∧ ∀ j, j < (15 : Fin 16) → (start.setKey 15 true).pressed j = false := by
  decide

theorem witness_KeyWaitHoldsWhileNoKeyIsPressed : decode (holding 0xF60A).fetchWord = .ok (.ldVxK 6) ∧
    ∀ k, (holding 0xF60A).pressed k = false := ⟨rfl, by decide⟩

/-- An instruction with a register destination, on a next state. -/
theorem witness_EveryPartHasOnlyItsWriters : ∃ t, exec (.addReg 1 2) start = .next t := ⟨_, rfl⟩

/-- A register that is no destination, and VF under an instruction that writes no flag. -/
theorem witness_RegistersChangeOnlyAsDestinationOrFlag :
    (∃ t, exec (.addReg 1 2) start = .next t) ∧ writesV 2 (.addReg 1 2) = false ∧
    (∃ t, exec (.addImm 1 2) start = .next t) ∧ writesV Reg.F (.addImm 1 2) = false ∧
    writesFlag (.addImm 1 2) = false := ⟨⟨_, rfl⟩, rfl, ⟨_, rfl⟩, rfl, rfl⟩

/-- A cycle of each outcome: no error, an unknown word, an overflow. -/
theorem witness_ErrReportsExactlyTheTwoErrors :
    (∃ t, step (holding 0x7044) = .next t ∧ t.err = .none) ∧
    (∃ t, step (holding 0xFFFF) = .next t ∧ t.err = .unknownOpcode 0xFFFF) ∧
    (∃ t, step (holdingFull 0x2300) = .next t ∧ t.err = .stackOverflow) := ⟨⟨_, rfl, rfl⟩, ⟨_, rfl, rfl⟩, ⟨_, rfl, rfl⟩⟩

/-- Cycles that set the bit and that leave it, a host operation, and a session from a state that has it. -/
theorem witness_GoneWrongIsNeverCleared :
    (∃ t, step (holding 0xFFFF) = .next t ∧ t.wentWrong = true) ∧
    (∃ t, step (holding 0x7044) = .next t ∧ t.wentWrong = false) ∧
    (∃ t, applyHostOp .reset (start.raise .stackOverflow) = .ok t) ∧ (start.raise .stackOverflow).wentWrong = true ∧
    (∃ t, runEvents [.cycle, .host .reset, .cycle] (start.raise .stackOverflow) = .next t) :=
  ⟨⟨_, rfl, rfl⟩, ⟨_, rfl, rfl⟩, ⟨_, rfl⟩, rfl, ⟨_, rfl⟩⟩

theorem witness_ErrorsRepeatForever : (∃ why, decode (holding 0xFFFF).fetchWord = .error why) ∧
    (∃ nnn, decode (holdingFull 0x2300).fetchWord = .ok (.call nnn)) ∧ (holdingFull 0x2300).sp.val = 16 :=
  ⟨⟨_, rfl⟩, ⟨_, rfl⟩, rfl⟩

/-- `JP` to itself at 0x200, and at the last even address. -/
theorem witness_StoppedStaysStopped : (holding 0x1200).stopped = true ∧
    (((start.setPc 0xFFE).withFetchWord 16 0x1FFE).stopped = true) := by decide

theorem witness_RandomInputReachesOnlyRnd : (∀ x nn, decode (holding 0x7044).fetchWord ≠ .ok (.rnd x nn)) ∧
    ∃ t, step (holding 0x7044) = .next t := by
  refine ⟨fun x nn h => ?_, _, rfl⟩
  rw [witness_StepRunsTheDecodedInstruction] at h
  exact Instr.noConfusion (Except.ok.inj h)

/-- The two clauses: an instruction other than FX18, and FX18. -/
theorem witness_SoundTimerIsReadByNoInstruction :
    (∃ t, exec (.ldVxDt 3) start = .next t) ∧ (∀ x, Instr.ldVxDt 3 ≠ .ldStVx x) ∧
    (∃ t, exec (.ldStVx 3) start = .next t) ∧ ∃ x, Instr.ldStVx 3 = .ldStVx x :=
  ⟨⟨_, rfl⟩, fun _ h => Instr.noConfusion h, ⟨_, rfl⟩, _, rfl⟩

/-- I at the top of its range, a byte of memory listed, and a cycle. -/
theorem witness_EveryCycleKeepsTheInvariant : MachineInv ((holding 0x7044).setI 0xFFF) ∧
    ∃ t, step ((holding 0x7044).setI 0xFFF) = .next t := ⟨by unfold MachineInv; decide, _, rfl⟩

theorem witness_EverySessionKeepsTheInvariant : MachineInv start ∧
    ∃ t, runEvents [.host (.load [0x12, 0x00]), .cycle, .host (.keySet 5 true), .cycle] start = .next t :=
  ⟨by unfold MachineInv; decide, _, rfl⟩

end Sys2Proof.Tests
end

section
/-! The fetched word stays in OPCODE through all four phases of a cycle (40_cycle.md R80): the fetch latches it, no
instruction's meaning writes OPCODE, raising the unknown-word error does not, and the tick does not (decision D20). -/

namespace Sys2Proof.Machine

/-! ### The executor phase keeps OPCODE -/

theorem State.popSp_opcode (s : State) : s.popSp.opcode = s.opcode := by
  obtain ⟨n, h⟩ := s.popSp_frame
  rw [h, State.setSp_opcode]

theorem State.storeRun_opcode (n : Nat) (s : State) : (State.storeRun n s).opcode = s.opcode := by
  obtain ⟨m, h⟩ := State.storeRun_frame n s
  rw [h]

theorem State.loadRun_opcode (n : Nat) (s : State) : (State.loadRun n s).opcode = s.opcode := by
  obtain ⟨v, h⟩ := State.loadRun_frame n s
  rw [h]

theorem State.drawRows_opcode (x0 y0 : Byte) (n : Nat) (s : State) : (State.drawRows x0 y0 n s).opcode = s.opcode := by
  obtain ⟨v, fb, h⟩ := State.drawRows_frame x0 y0 n s
  rw [h]

/-- OPCODE is written by the fetch alone (10_state.md R22). The instructions that branch are split; those that run over
registers, rows or the stack go by the lemma of their operation; each of the others is a chain of single-field updates. -/
theorem exec_keeps_opcode (i : Instr) (s : State) : ∃ t, exec i s = .next t ∧ t.opcode = s.opcode := by
  cases i
  case call nnn =>
    simp only [exec, execCall]
    split
    · exact ⟨_, rfl, rfl⟩
    · exact ⟨_, rfl, rfl⟩
  case ldVxK x =>
    simp only [exec, execLdVxK]
    split
    · exact ⟨_, rfl, rfl⟩
    · exact ⟨_, rfl, rfl⟩
  case ret => exact ⟨_, rfl, s.popSp_opcode⟩
  case drw x y n => exact ⟨_, rfl, State.drawRows_opcode (s.getV x) (s.getV y) n (s.setV Reg.F 0)⟩
  case stRegs x => exact ⟨_, rfl, State.storeRun_opcode (x.val + 1) s⟩
  case ldRegs x => exact ⟨_, rfl, State.loadRun_opcode (x.val + 1) s⟩
  all_goals exact ⟨_, rfl, rfl⟩

/-! ### The cycle -/

/-- A cycle whose instruction leaves `u` ends with the tick of `u`. -/
theorem step_of_exec {s u : State} {i : Instr} (hdec : decode s.fetchWord = .ok i)
    (hexec : exec i s.beginCycle = .next u) : step s = .next u.tick := by
  rw [step_of_decode hdec, hexec, finishCycle_next]

/-- Every cycle completes (40_cycle.md R86), and OPCODE holds the fetched word when it has ended. -/
theorem step_latches_fetchWord (s : State) : ∃ t, step s = .next t ∧ t.opcode = s.fetchWord := by
  cases hdec : decode s.fetchWord with
  | ok i =>
    obtain ⟨u, hexec, hop⟩ := exec_keeps_opcode i s.beginCycle
    exact ⟨u.tick, step_of_exec hdec hexec, by rw [State.tick_opcode, hop, State.beginCycle_opcode]⟩
  | error why => exact ⟨_, step_of_unknown hdec, rfl⟩

theorem State.fetchWord_toNat (s : State) :
    s.fetchWord.toNat = (s.memRead s.pc.toNat).toNat * 256 + (s.memRead (s.pc.toNat + 1)).toNat :=
  wordOfBytes_toNat _ _

/-- Settles O8: OPCODE after the cycle is the fetched word, whose value is that of its two bytes, high byte first. -/
theorem cycleAlwaysRunsAndLatchesTheFetchedWord : Obligations.CycleAlwaysRunsAndLatchesTheFetchedWord := by
  intro s
  obtain ⟨t, hstep, hop⟩ := step_latches_fetchWord s
  exact ⟨t, hstep, hop ▸ s.fetchWord_toNat⟩

end Sys2Proof.Machine
end

section
/-! 00E0 (41_display.md R91): its encoding, read field by field off the bits that the row of the opcode map fixes, and
its frame, the clearing of FB followed by the advance of PC. -/

namespace Sys2Proof

/-! ### Fields of a word whose masked bits are known -/

/-- A field that lies under the mask is read off the masked value. -/
theorem extractLsb'_eq_of_and_eq {w mask value : Word} {start len : Nat}
    (hmask : mask.extractLsb' start len = BitVec.allOnes len) (h : w &&& mask = value) :
    w.extractLsb' start len = value.extractLsb' start len := by
  rw [← h, BitVec.extractLsb'_and, hmask, BitVec.and_allOnes]

theorem decode_of_topNibble_zero {w : Word} (h : topNibble w = 0) : decode w = decodeFamily0 w := by
  simp [decode, h]

theorem decodeFamily0_of_fieldNN_E0 {w : Word} (h : fieldNN w = 0xE0) : decodeFamily0 w = .ok .cls := by
  simp [decodeFamily0, h]

end Sys2Proof

namespace Sys2Proof.Machine

/-- The encoding line of R91: bits 11:8 are not examined (decision D11). -/
theorem cls_encodes : Encodes 0xF0FF 0x00E0 (fun _ => .cls) := by
  intro w h
  have htop : topNibble w = 0 := extractLsb'_eq_of_and_eq rfl h
  have hlow : fieldNN w = 0xE0 := extractLsb'_eq_of_and_eq rfl h
  rw [decode_of_topNibble_zero htop, decodeFamily0_of_fieldNN_E0 hlow]

/-! ### The frames of the two updates of 00E0 -/

theorem State.advance_onlyChanges (s : State) : OnlyChanges [.pc] s s.advance := by
  intro part hp
  cases part
  case pc => simp at hp
  all_goals simp [AgreeOn]

theorem State.clearCells_onlyChanges (s : State) : OnlyChanges [.fb] s s.clearCells := by
  intro part hp
  cases part
  case fb => simp at hp
  all_goals simp [AgreeOn]

/-- 00E0 clears the cells and advances PC. -/
theorem exec_cls (s : State) : exec .cls s = .next s.clearCells.advance := rfl

/-- The advance behind the clearing keeps FB, and the frame of the two together is FB and PC. -/
theorem State.clearCells_advance_onlyChanges (s : State) : OnlyChanges [.fb, .pc] s s.clearCells.advance := by
  have hclear : OnlyChanges [.fb, .pc] s s.clearCells := s.clearCells_onlyChanges.mono (by simp)
  have hadvance : OnlyChanges [.fb, .pc] s.clearCells s.clearCells.advance :=
    s.clearCells.advance_onlyChanges.mono (by simp)
  exact hclear.trans hadvance

/-- Settles O17: the encoding line, then the cells, PC and the frame of the state that 00E0 leaves. -/
theorem clsClearsTheFrameBuffer : Obligations.ClsClearsTheFrameBuffer := by
  refine ⟨cls_encodes, fun s => ⟨s.clearCells.advance, exec_cls s, ?_, ?_, s.clearCells_advance_onlyChanges⟩⟩
  · intro x y
    rw [State.advance_getCell, State.getCell_clearCells]
  · rw [State.advance_pc, State.clearCells_pc]

end Sys2Proof.Machine
end

section
/-! 00EE, 1NNN and BNNN (42_flow.md R101, R102, R104): their encodings, the slot that a pop leaves SP at, and their targets,
which are sums that fit in PC and lose no bit. -/

namespace Sys2Proof

/-! ### Encodings -/

theorem decodeFamily0_of_fieldNN_EE {w : Word} (h : fieldNN w = 0xEE) : decodeFamily0 w = .ok .ret := by
  simp [decodeFamily0, h]

theorem decode_of_topNibble_one {w : Word} (h : topNibble w = 0x1) : decode w = .ok (.jp (fieldNNN w)) := by
  simp [decode, h]

theorem decode_of_topNibble_B {w : Word} (h : topNibble w = 0xB) : decode w = .ok (.jpV0 (fieldNNN w)) := by
  simp [decode, h]

end Sys2Proof

namespace Sys2Proof.Machine

/-- The encoding line of R101: bits 11:8 are not examined (decision D11). -/
theorem ret_encodes : Encodes 0xF0FF 0x00EE (fun _ => .ret) := by
  intro w h
  have htop : topNibble w = 0 := extractLsb'_eq_of_and_eq rfl h
  have hlow : fieldNN w = 0xEE := extractLsb'_eq_of_and_eq rfl h
  rw [decode_of_topNibble_zero htop, decodeFamily0_of_fieldNN_EE hlow]

/-- The encoding line of R102. -/
theorem jp_encodes : Encodes 0xF000 0x1000 (fun w => .jp (fieldNNN w)) :=
  fun _ h => decode_of_topNibble_one (extractLsb'_eq_of_and_eq rfl h)

/-- The encoding line of R104. -/
theorem jpV0_encodes : Encodes 0xF000 0xB000 (fun w => .jpV0 (fieldNNN w)) :=
  fun _ h => decode_of_topNibble_B (extractLsb'_eq_of_and_eq rfl h)

/-! ### Frames -/

theorem State.setPc_onlyChanges (s : State) (w : Word) : OnlyChanges [.pc] s (s.setPc w) := by
  intro part hp
  cases part
  case pc => simp at hp
  all_goals simp [AgreeOn]

theorem State.setSp_onlyChanges (s : State) (n : SpCount) : OnlyChanges [.sp] s (s.setSp n) := by
  intro part hp
  cases part
  case sp => simp at hp
  all_goals simp [AgreeOn]

theorem State.popSp_onlyChanges (s : State) : OnlyChanges [.sp] s s.popSp := by
  obtain ⟨n, h⟩ := s.popSp_frame
  rw [h]
  exact s.setSp_onlyChanges n

theorem State.popSp_setPc_onlyChanges (s : State) (w : Word) : OnlyChanges [.sp, .pc] s (s.popSp.setPc w) := by
  have hpop : OnlyChanges [.sp, .pc] s s.popSp := s.popSp_onlyChanges.mono (by simp)
  have hjump : OnlyChanges [.sp, .pc] s.popSp (s.popSp.setPc w) := (s.popSp.setPc_onlyChanges w).mono (by simp)
  exact hpop.trans hjump

/-! ### The return -/

/-- A pop leaves STACK as it is. -/
theorem State.popSp_stackRead (s : State) (k : Slot) : s.popSp.stackRead k = s.stackRead k :=
  (s.popSp_onlyChanges.keeps .stack) k

/-- After a pop SP is at most 15 and names a slot itself, also where the stack was full. -/
theorem State.popSp_spSlot_val (s : State) : s.popSp.spSlot.val = s.sp.val - 1 := by
  have hslot : s.popSp.sp.val < 16 := by
    have hsp := s.sp.isLt
    rw [s.popSp_sp]
    omega
  rw [State.spSlot_val _ hslot, s.popSp_sp]

/-- 00EE pops SP and goes behind the address in the slot SP then names. -/
theorem exec_ret (s : State) :
    exec .ret s = .next (s.popSp.setPc (s.popSp.stackRead s.popSp.spSlot + Config.insnBytes)) := rfl

/-- Settles O20: SP and the slot it then names come from the pop, PC from that slot, which the pop keeps. -/
theorem retReturnsToTheSavedAddressPlusTwo : Obligations.RetReturnsToTheSavedAddressPlusTwo := by
  refine ⟨ret_encodes, fun s => ⟨_, exec_ret s, ?_, fun k hk => ?_, s.popSp_setPc_onlyChanges _⟩⟩
  · rw [State.setPc_sp, s.popSp_sp]
  · have hslot : s.popSp.spSlot = k := Fin.ext (s.popSp_spSlot_val.trans hk.symm)
    rw [State.setPc_pc, hslot, s.popSp_stackRead]

/-! ### The jumps -/

theorem zextAddr_toNat (nnn : Addr) : (zextAddr nnn).toNat = nnn.toNat :=
  BitVec.toNat_setWidth_of_le (by decide)

/-- BNNN's sum is at most 0xFFF + 0xFF, so 16 bits hold it. -/
theorem jumpTarget_toNat (nnn : Addr) (v0 : Byte) : (jumpTarget nnn v0).toNat = nnn.toNat + v0.toNat := by
  have hv0 : (v0.setWidth 16).toNat = v0.toNat := BitVec.toNat_setWidth_of_le (by decide)
  have hfits : nnn.toNat + v0.toNat < 2 ^ 16 := by omega
  rw [jumpTarget, BitVec.toNat_add, zextAddr_toNat, hv0, Nat.mod_eq_of_lt hfits]

theorem exec_jp (nnn : Addr) (s : State) : exec (.jp nnn) s = .next (s.setPc (zextAddr nnn)) := rfl

theorem exec_jpV0 (nnn : Addr) (s : State) : exec (.jpV0 nnn) s = .next (s.setPc (jumpTarget nnn (s.getV 0))) := rfl

/-- Settles O21: both instructions are one write of PC, whose targets have the stated values as naturals. -/
theorem jumpsSetPc : Obligations.JumpsSetPc := by
  refine ⟨jp_encodes, jpV0_encodes, fun s nnn => ⟨⟨_, exec_jp nnn s, ?_, s.setPc_onlyChanges _⟩,
    ⟨_, exec_jpV0 nnn s, ?_, s.setPc_onlyChanges _⟩⟩⟩
  · rw [State.setPc_pc, zextAddr_toNat]
  · rw [State.setPc_pc, jumpTarget_toNat]

end Sys2Proof.Machine
end

section
/-! 3XNN, 4XNN, 5XY0 and 9XY0 (43_skip.md R110 to R114): their encodings, which one nibble selects, and the one operation
they share, a skip on a condition, which writes PC alone. -/

namespace Sys2Proof

/-! ### Encodings -/

theorem decode_of_topNibble_three {w : Word} (h : topNibble w = 0x3) :
    decode w = .ok (.seImm (fieldX w) (fieldNN w)) := by
  simp [decode, h]

theorem decode_of_topNibble_four {w : Word} (h : topNibble w = 0x4) :
    decode w = .ok (.sneImm (fieldX w) (fieldNN w)) := by
  simp [decode, h]

theorem decode_of_topNibble_five {w : Word} (h : topNibble w = 0x5) :
    decode w = .ok (.seReg (fieldX w) (fieldY w)) := by
  simp [decode, h]

theorem decode_of_topNibble_nine {w : Word} (h : topNibble w = 0x9) :
    decode w = .ok (.sneReg (fieldX w) (fieldY w)) := by
  simp [decode, h]

end Sys2Proof

namespace Sys2Proof.Machine

/-- The encoding line of R111. -/
theorem seImm_encodes : Encodes 0xF000 0x3000 (fun w => .seImm (fieldX w) (fieldNN w)) :=
  fun _ h => decode_of_topNibble_three (extractLsb'_eq_of_and_eq rfl h)

/-- The encoding line of R112. -/
theorem sneImm_encodes : Encodes 0xF000 0x4000 (fun w => .sneImm (fieldX w) (fieldNN w)) :=
  fun _ h => decode_of_topNibble_four (extractLsb'_eq_of_and_eq rfl h)

/-- The encoding line of R113: bits 3:0 are not examined (decision D11). -/
theorem seReg_encodes : Encodes 0xF000 0x5000 (fun w => .seReg (fieldX w) (fieldY w)) :=
  fun _ h => decode_of_topNibble_five (extractLsb'_eq_of_and_eq rfl h)

/-- The encoding line of R114: bits 3:0 are not examined (decision D11). -/
theorem sneReg_encodes : Encodes 0xF000 0x9000 (fun w => .sneReg (fieldX w) (fieldY w)) :=
  fun _ h => decode_of_topNibble_nine (extractLsb'_eq_of_and_eq rfl h)

/-! ### A skip on a condition -/

theorem State.skipIf_pc_of_holds (s : State) {cond : Prop} [Decidable cond] (h : cond) :
    (s.skipIf (decide cond)).pc = s.pc + 4 := by
  rw [State.skipIf_pc, decide_eq_true h, if_pos rfl]

theorem State.skipIf_pc_of_fails (s : State) {cond : Prop} [Decidable cond] (h : ¬ cond) :
    (s.skipIf (decide cond)).pc = s.pc + 2 := by
  rw [State.skipIf_pc, decide_eq_false h, if_neg Bool.false_ne_true]

/-- Taken or not, a skip is one write of PC. -/
theorem State.skipIf_onlyChanges (s : State) (taken : Bool) : OnlyChanges [.pc] s (s.skipIf taken) :=
  s.setPc_onlyChanges _

/-- An outcome that skips on equality (R111, R113): 4 where `a` and `b` are equal, 2 where they differ. -/
theorem skips_of_eq {a b : Byte} {s : State} {out : Host.Outcome State Fault Refusal}
    (hout : out = .next (s.skipIf (decide (a = b)))) :
    ∃ t, out = .next t ∧ (a = b → t.pc = s.pc + 4) ∧ (a ≠ b → t.pc = s.pc + 2) ∧ OnlyChanges [.pc] s t :=
  ⟨_, hout, s.skipIf_pc_of_holds, s.skipIf_pc_of_fails, s.skipIf_onlyChanges _⟩

/-- An outcome that skips on difference (R112, R114): 4 where `a` and `b` differ, 2 where they are equal. -/
theorem skips_of_ne {a b : Byte} {s : State} {out : Host.Outcome State Fault Refusal}
    (hout : out = .next (s.skipIf (decide (a ≠ b)))) :
    ∃ t, out = .next t ∧ (a ≠ b → t.pc = s.pc + 4) ∧ (a = b → t.pc = s.pc + 2) ∧ OnlyChanges [.pc] s t :=
  ⟨_, hout, s.skipIf_pc_of_holds, fun heq => s.skipIf_pc_of_fails (not_not_intro heq), s.skipIf_onlyChanges _⟩

/-! ### The four instructions -/

theorem exec_seImm (x : Reg) (nn : Byte) (s : State) :
    exec (.seImm x nn) s = .next (s.skipIf (decide (s.getV x = nn))) := rfl

theorem exec_sneImm (x : Reg) (nn : Byte) (s : State) :
    exec (.sneImm x nn) s = .next (s.skipIf (decide (s.getV x ≠ nn))) := rfl

theorem exec_seReg (x y : Reg) (s : State) :
    exec (.seReg x y) s = .next (s.skipIf (decide (s.getV x = s.getV y))) := rfl

theorem exec_sneReg (x y : Reg) (s : State) :
    exec (.sneReg x y) s = .next (s.skipIf (decide (s.getV x ≠ s.getV y))) := rfl

/-- Settles O25: 3XNN skips on the equality of V[X] and NN, 4XNN on their difference. -/
theorem skipsOnAnImmediate : Obligations.SkipsOnAnImmediate :=
  ⟨seImm_encodes, sneImm_encodes, fun s x nn =>
    ⟨skips_of_eq (exec_seImm x nn s), skips_of_ne (exec_sneImm x nn s)⟩⟩

/-- Settles O26: 5XY0 skips on the equality of V[X] and V[Y], 9XY0 on their difference. -/
theorem skipsOnTwoRegisters : Obligations.SkipsOnTwoRegisters :=
  ⟨seReg_encodes, sneReg_encodes, fun s x y =>
    ⟨skips_of_eq (exec_seReg x y s), skips_of_ne (exec_sneReg x y s)⟩⟩

end Sys2Proof.Machine
end

section
/-! 6XNN, 7XNN and 8XY0 to 8XY3 (44_alu.md R121 to R126): their encodings, and the one operation they share, a write of
V[X] followed by the advance of PC, so that VF is written only where X is F. -/

namespace Sys2Proof

/-! ### Encodings -/

theorem decode_of_topNibble_six {w : Word} (h : topNibble w = 0x6) :
    decode w = .ok (.ldImm (fieldX w) (fieldNN w)) := by
  simp [decode, h]

theorem decode_of_topNibble_seven {w : Word} (h : topNibble w = 0x7) :
    decode w = .ok (.addImm (fieldX w) (fieldNN w)) := by
  simp [decode, h]

theorem decode_of_topNibble_eight {w : Word} (h : topNibble w = 0x8) : decode w = decodeFamily8 w := by
  simp [decode, h]

theorem decodeFamily8_of_lowNibble_zero {w : Word} (h : lowNibble w = 0x0) :
    decodeFamily8 w = .ok (.ldReg (fieldX w) (fieldY w)) := by
  simp [decodeFamily8, h]

theorem decodeFamily8_of_lowNibble_one {w : Word} (h : lowNibble w = 0x1) :
    decodeFamily8 w = .ok (.orReg (fieldX w) (fieldY w)) := by
  simp [decodeFamily8, h]

theorem decodeFamily8_of_lowNibble_two {w : Word} (h : lowNibble w = 0x2) :
    decodeFamily8 w = .ok (.andReg (fieldX w) (fieldY w)) := by
  simp [decodeFamily8, h]

theorem decodeFamily8_of_lowNibble_three {w : Word} (h : lowNibble w = 0x3) :
    decodeFamily8 w = .ok (.xorReg (fieldX w) (fieldY w)) := by
  simp [decodeFamily8, h]

/-- The fixed bits 0xF00F with top nibble 8 leave the decoding to family 8 (R63). -/
theorem decode_of_family8_bits {w value : Word} (hvalue : value.extractLsb' 12 4 = 0x8) (h : w &&& 0xF00F = value) :
    decode w = decodeFamily8 w :=
  decode_of_topNibble_eight ((extractLsb'_eq_of_and_eq rfl h).trans hvalue)

end Sys2Proof

namespace Sys2Proof.Machine

/-- The encoding line of R121. -/
theorem ldImm_encodes : Encodes 0xF000 0x6000 (fun w => .ldImm (fieldX w) (fieldNN w)) :=
  fun _ h => decode_of_topNibble_six (extractLsb'_eq_of_and_eq rfl h)

/-- The encoding line of R122. -/
theorem addImm_encodes : Encodes 0xF000 0x7000 (fun w => .addImm (fieldX w) (fieldNN w)) :=
  fun _ h => decode_of_topNibble_seven (extractLsb'_eq_of_and_eq rfl h)

/-- The encoding line of R123. -/
theorem ldReg_encodes : Encodes 0xF00F 0x8000 (fun w => .ldReg (fieldX w) (fieldY w)) :=
  fun _ h => (decode_of_family8_bits rfl h).trans (decodeFamily8_of_lowNibble_zero (extractLsb'_eq_of_and_eq rfl h))

/-- The encoding line of R124. -/
theorem orReg_encodes : Encodes 0xF00F 0x8001 (fun w => .orReg (fieldX w) (fieldY w)) :=
  fun _ h => (decode_of_family8_bits rfl h).trans (decodeFamily8_of_lowNibble_one (extractLsb'_eq_of_and_eq rfl h))

/-- The encoding line of R125. -/
theorem andReg_encodes : Encodes 0xF00F 0x8002 (fun w => .andReg (fieldX w) (fieldY w)) :=
  fun _ h => (decode_of_family8_bits rfl h).trans (decodeFamily8_of_lowNibble_two (extractLsb'_eq_of_and_eq rfl h))

/-- The encoding line of R126. -/
theorem xorReg_encodes : Encodes 0xF00F 0x8003 (fun w => .xorReg (fieldX w) (fieldY w)) :=
  fun _ h => (decode_of_family8_bits rfl h).trans (decodeFamily8_of_lowNibble_three (extractLsb'_eq_of_and_eq rfl h))

/-! ### A write of V[X] followed by the advance -/

theorem State.setV_onlyChanges (s : State) (x : Reg) (b : Byte) : OnlyChanges [.v] s (s.setV x b) := by
  intro part hp
  cases part
  case v => simp at hp
  all_goals simp [AgreeOn]

theorem State.setV_advance_onlyChanges (s : State) (x : Reg) (b : Byte) :
    OnlyChanges [.v, .pc] s (s.setV x b).advance := by
  have hset : OnlyChanges [.v, .pc] s (s.setV x b) := (s.setV_onlyChanges x b).mono (by simp)
  have hadvance : OnlyChanges [.v, .pc] (s.setV x b) (s.setV x b).advance :=
    (s.setV x b).advance_onlyChanges.mono (by simp)
  exact hset.trans hadvance

theorem State.setV_advance_onlyWritesV (s : State) (x : Reg) (b : Byte) : OnlyWritesV [x] s (s.setV x b).advance := by
  intro r hr
  have hne : r ≠ x := by simpa using hr
  rw [State.advance_getV, State.getV_setV, if_neg hne]

/-- An outcome that writes V[X] and advances: V[X] reads as written, and besides it only PC changes. -/
theorem writes_of_setV {x : Reg} {b : Byte} {s : State} {out : Host.Outcome State Fault Refusal}
    (hout : out = .next (s.setV x b).advance) :
    ∃ t, out = .next t ∧ t.getV x = b ∧ t.pc = s.pc + 2 ∧ OnlyWritesV [x] s t ∧ OnlyChanges [.v, .pc] s t :=
  ⟨_, hout, s.getV_setV_same x b, (s.setV x b).advance_pc, s.setV_advance_onlyWritesV x b,
    s.setV_advance_onlyChanges x b⟩

/-! ### The six instructions -/

theorem exec_ldImm (x : Reg) (nn : Byte) (s : State) : exec (.ldImm x nn) s = .next (s.setV x nn).advance := rfl

theorem exec_addImm (x : Reg) (nn : Byte) (s : State) :
    exec (.addImm x nn) s = .next (s.setV x (s.getV x + nn)).advance := rfl

theorem exec_ldReg (x y : Reg) (s : State) : exec (.ldReg x y) s = .next (s.setV x (s.getV y)).advance := rfl

theorem exec_orReg (x y : Reg) (s : State) :
    exec (.orReg x y) s = .next (s.setV x (s.getV x ||| s.getV y)).advance := rfl

theorem exec_andReg (x y : Reg) (s : State) :
    exec (.andReg x y) s = .next (s.setV x (s.getV x &&& s.getV y)).advance := rfl

theorem exec_xorReg (x y : Reg) (s : State) :
    exec (.xorReg x y) s = .next (s.setV x (s.getV x ^^^ s.getV y)).advance := rfl

/-- Settles O27: each of the three is one write of V[X], and 7XNN's sum of bytes is the sum of naturals mod 256. -/
theorem loadsAndImmediateAdd : Obligations.LoadsAndImmediateAdd := by
  refine ⟨ldImm_encodes, addImm_encodes, ldReg_encodes, fun s x y nn =>
    ⟨writes_of_setV (exec_ldImm x nn s), ?_, writes_of_setV (exec_ldReg x y s)⟩⟩
  obtain ⟨t, hexec, hvalue, hrest⟩ := writes_of_setV (exec_addImm x nn s)
  exact ⟨t, hexec, by rw [hvalue, BitVec.toNat_add], hrest⟩

/-- Settles O28: each of the three is one write of V[X] with the bitwise combination, whatever X is. -/
theorem bitwiseOperations : Obligations.BitwiseOperations :=
  ⟨orReg_encodes, andReg_encodes, xorReg_encodes, fun s x y =>
    ⟨writes_of_setV (exec_orReg x y s), writes_of_setV (exec_andReg x y s), writes_of_setV (exec_xorReg x y s)⟩⟩

end Sys2Proof.Machine
end

section
/-! ANNN (45_index_memory.md R140): its encoding, and its meaning as a write of I followed by the advance of PC. -/

namespace Sys2Proof

theorem decode_of_topNibble_A {w : Word} (h : topNibble w = 0xA) : decode w = .ok (.ldI (fieldNNN w)) := by
  simp [decode, h]

end Sys2Proof

namespace Sys2Proof.Machine

/-- The encoding line of R140. -/
theorem ldI_encodes : Encodes 0xF000 0xA000 (fun w => .ldI (fieldNNN w)) :=
  fun _ h => decode_of_topNibble_A (extractLsb'_eq_of_and_eq rfl h)

/-! ### A write of I followed by the advance -/

theorem State.setI_onlyChanges (s : State) (w : Word) : OnlyChanges [.i] s (s.setI w) := by
  intro part hp
  cases part
  case i => simp at hp
  all_goals simp [AgreeOn]

theorem State.setI_advance_onlyChanges (s : State) (w : Word) : OnlyChanges [.i, .pc] s (s.setI w).advance := by
  have hset : OnlyChanges [.i, .pc] s (s.setI w) := (s.setI_onlyChanges w).mono (by simp)
  have hadvance : OnlyChanges [.i, .pc] (s.setI w) (s.setI w).advance :=
    (s.setI w).advance_onlyChanges.mono (by simp)
  exact hset.trans hadvance

/-! ### The instruction -/

theorem exec_ldI (nnn : Addr) (s : State) : exec (.ldI nnn) s = .next (s.setI (zextAddr nnn)).advance := rfl

/-- Settles O32: the one write of I is of NNN in 16 bits, which keeps its value as a natural. -/
theorem loadIndex : Obligations.LoadIndex := by
  refine ⟨ldI_encodes, fun s nnn => ⟨_, exec_ldI nnn s, ?_, (s.setI _).advance_pc, s.setI_advance_onlyChanges _⟩⟩
  rw [State.advance_i, State.setI_i, zextAddr_toNat]

end Sys2Proof.Machine
end

section
/-! FX07, FX15 and FX18 (47_timers.md R160 to R163): their encodings in family F, each as one move of a byte followed by
the advance of PC, and the tick of the same cycle on the timer that the move leaves. -/

namespace Sys2Proof

/-! ### Encodings -/

theorem decode_of_topNibble_F {w : Word} (h : topNibble w = 0xF) : decode w = decodeFamilyF w := by
  simp [decode, h]

theorem decodeFamilyF_of_fieldNN_07 {w : Word} (h : fieldNN w = 0x07) :
    decodeFamilyF w = .ok (.ldVxDt (fieldX w)) := by
  simp [decodeFamilyF, h]

theorem decodeFamilyF_of_fieldNN_15 {w : Word} (h : fieldNN w = 0x15) :
    decodeFamilyF w = .ok (.ldDtVx (fieldX w)) := by
  simp [decodeFamilyF, h]

theorem decodeFamilyF_of_fieldNN_18 {w : Word} (h : fieldNN w = 0x18) :
    decodeFamilyF w = .ok (.ldStVx (fieldX w)) := by
  simp [decodeFamilyF, h]

/-- The fixed bits 0xF0FF with top nibble F leave the decoding to family F (R63). -/
theorem decode_of_familyF_bits {w value : Word} (hvalue : value.extractLsb' 12 4 = 0xF) (h : w &&& 0xF0FF = value) :
    decode w = decodeFamilyF w :=
  decode_of_topNibble_F ((extractLsb'_eq_of_and_eq rfl h).trans hvalue)

end Sys2Proof

namespace Sys2Proof.Machine

/-- The encoding line of R161. -/
theorem ldVxDt_encodes : Encodes 0xF0FF 0xF007 (fun w => .ldVxDt (fieldX w)) :=
  fun _ h => (decode_of_familyF_bits rfl h).trans (decodeFamilyF_of_fieldNN_07 (extractLsb'_eq_of_and_eq rfl h))

/-- The encoding line of R162. -/
theorem ldDtVx_encodes : Encodes 0xF0FF 0xF015 (fun w => .ldDtVx (fieldX w)) :=
  fun _ h => (decode_of_familyF_bits rfl h).trans (decodeFamilyF_of_fieldNN_15 (extractLsb'_eq_of_and_eq rfl h))

/-- The encoding line of R163. -/
theorem ldStVx_encodes : Encodes 0xF0FF 0xF018 (fun w => .ldStVx (fieldX w)) :=
  fun _ h => (decode_of_familyF_bits rfl h).trans (decodeFamilyF_of_fieldNN_18 (extractLsb'_eq_of_and_eq rfl h))

/-! ### The tick behind a move (60_exceptions.md R180) -/

theorem State.tick_dt_toNat (s : State) : s.tick.dt.toNat = s.dt.toNat - 1 := by
  rw [State.tick_dt, countDown_toNat]

theorem State.tick_st_toNat (s : State) : s.tick.st.toNat = s.st.toNat - 1 := by
  rw [State.tick_st, countDown_toNat]

/-- The edge belongs to the tick's step of ST from 1 to 0 alone. -/
theorem State.tick_soundEdge_iff (s : State) : s.tick.soundEdge = true ↔ s.st = 1 := by
  rw [State.tick_soundEdge, decide_eq_true_iff]

/-! ### Frames -/

/-- An advance behind a change adds PC to the frame. -/
theorem OnlyChanges.advance {parts : List Item} {s u : State} (h : OnlyChanges parts s u) :
    OnlyChanges (parts ++ [.pc]) s u.advance := by
  have hchange : OnlyChanges (parts ++ [.pc]) s u :=
    h.mono fun _ hpart => List.mem_append_left _ hpart
  have hadvance : OnlyChanges (parts ++ [.pc]) u u.advance := u.advance_onlyChanges.mono (by simp)
  exact hchange.trans hadvance

theorem State.setDt_onlyChanges (s : State) (b : Byte) : OnlyChanges [.dt] s (s.setDt b) := by
  intro part hp
  cases part
  case dt => simp at hp
  all_goals simp [AgreeOn]

theorem State.setSt_onlyChanges (s : State) (b : Byte) : OnlyChanges [.st] s (s.setSt b) := by
  intro part hp
  cases part
  case st => simp at hp
  all_goals simp [AgreeOn]

/-! ### The three instructions -/

theorem exec_ldVxDt (x : Reg) (s : State) : exec (.ldVxDt x) s = .next (s.setV x s.dt).advance := rfl

theorem exec_ldDtVx (x : Reg) (s : State) : exec (.ldDtVx x) s = .next (s.setDt (s.getV x)).advance := rfl

theorem exec_ldStVx (x : Reg) (s : State) : exec (.ldStVx x) s = .next (s.setSt (s.getV x)).advance := rfl

/-- Settles O41: each of the three is one move, and the tick takes 1 off the timer as that move leaves it: FX07 keeps DT,
and FX15 and FX18 put V[X] into the timer, so that the edge comes exactly where V[X] = 1. -/
theorem timerAccess : Obligations.TimerAccess := by
  refine ⟨ldVxDt_encodes, ldDtVx_encodes, ldStVx_encodes, fun s x => ⟨?ldVxDt, ?ldDtVx, ?ldStVx⟩⟩
  case ldVxDt =>
    obtain ⟨t, hexec, hvalue, hpc, hregs, hframe⟩ := writes_of_setV (exec_ldVxDt x s)
    have hdt : t.dt = s.dt := hframe.keeps .dt
    exact ⟨t, hexec, hvalue, by rw [t.tick_dt_toNat, hdt], hpc, hregs, hframe⟩
  case ldDtVx =>
    exact ⟨_, exec_ldDtVx x s, rfl, State.tick_dt_toNat _, (s.setDt _).advance_pc, (s.setDt_onlyChanges _).advance⟩
  case ldStVx =>
    exact ⟨_, exec_ldStVx x s, rfl, State.tick_st_toNat _, State.tick_soundEdge_iff _, (s.setSt _).advance_pc,
      (s.setSt_onlyChanges _).advance⟩

end Sys2Proof.Machine
end

section
/-! The opcode map row by row (30_encoding.md R61 to R66, R69): a word put together from its own fields, the encoding
line of every row that no earlier part needed, and decoding as the choice of one row. -/

namespace Sys2Proof

/-! ### A word put together from its own fields -/

theorem field_fieldX (w : Word) : (fieldX w).field = w.extractLsb' 8 4 :=
  (BitVec.ofNat_toNat 4 (w.extractLsb' 8 4)).trans (BitVec.setWidth_eq _)

theorem field_fieldY (w : Word) : (fieldY w).field = w.extractLsb' 4 4 :=
  (BitVec.ofNat_toNat 4 (w.extractLsb' 4 4)).trans (BitVec.setWidth_eq _)

theorem formatA_of_fields (w : Word) : formatA (topNibble w) (fieldNNN w) = w :=
  (BitVec.extractLsb'_append_extractLsb'_eq_extractLsb' rfl).trans BitVec.extractLsb'_eq_self

theorem formatX_of_fields (w : Word) : formatX (topNibble w) (fieldX w) (fieldNN w) = w := by
  have hlow : (fieldX w).field ++ fieldNN w = fieldNNN w := by
    rw [field_fieldX]
    exact BitVec.extractLsb'_append_extractLsb'_eq_extractLsb' rfl
  rw [formatX, hlow]
  exact formatA_of_fields w

theorem formatR_of_fields (w : Word) : formatR (topNibble w) (fieldX w) (fieldY w) (lowNibble w) = w := by
  have hlow : (fieldY w).field ++ lowNibble w = fieldNN w := by
    rw [field_fieldY]
    exact BitVec.extractLsb'_append_extractLsb'_eq_extractLsb' rfl
  rw [formatR, hlow]
  exact formatX_of_fields w

/-! ### What a mask of the opcode map keeps -/

theorem and_F000 (w : Word) : w &&& 0xF000 = topNibble w ++ 0#12 := by
  have h := formatA_fixed (topNibble w) (fieldNNN w)
  rwa [formatA_of_fields] at h

theorem and_F0FF (w : Word) : w &&& 0xF0FF = topNibble w ++ (0#4 ++ fieldNN w) := by
  have h := formatX_fixed_low (topNibble w) (fieldX w) (fieldNN w)
  rwa [formatX_of_fields] at h

theorem and_F00F (w : Word) : w &&& 0xF00F = topNibble w ++ (0#4 ++ (0#4 ++ lowNibble w)) := by
  have h := formatR_fixed_low (topNibble w) (fieldX w) (fieldY w) (lowNibble w)
  rwa [formatR_of_fields] at h

/-- The mask that leaves out the ignored bits of 5XY0 and 9XY0 (R65). -/
theorem formatR_without_low (op : BitVec 4) (x y : Reg) (low : BitVec 4) :
    formatR op x y low &&& 0xFFF0 = formatR op x y 0#4 := by
  rw [formatR, show (0xFFF0 : Word) = 0xF#4 ++ (0xF#4 ++ (0xF#4 ++ 0#4)) from rfl, BitVec.and_append, BitVec.and_append,
    BitVec.and_append, nibble_and_allOnes, nibble_and_allOnes, nibble_and_allOnes, BitVec.and_zero, formatR]

theorem and_FFF0 (w : Word) : w &&& 0xFFF0 = formatR (topNibble w) (fieldX w) (fieldY w) 0 := by
  have h := formatR_without_low (topNibble w) (fieldX w) (fieldY w) (lowNibble w)
  rwa [formatR_of_fields] at h

@[simp] theorem fieldN_formatR (op : BitVec 4) (x y : Reg) (low : BitVec 4) :
    fieldN (formatR op x y low) = low.toNat := by
  rw [fieldN, lowNibble_formatR]

theorem fieldN_lt (w : Word) : fieldN w < 16 := (lowNibble w).isLt

/-! ### Decoding by the second key -/

theorem decode_of_topNibble_two {w : Word} (h : topNibble w = 0x2) :
    decode w = .ok (.call (fieldNNN w)) := by
  simp [decode, h]

theorem decode_of_topNibble_C {w : Word} (h : topNibble w = 0xC) :
    decode w = .ok (.rnd (fieldX w) (fieldNN w)) := by
  simp [decode, h]

theorem decode_of_topNibble_D {w : Word} (h : topNibble w = 0xD) :
    decode w = .ok (.drw (fieldX w) (fieldY w) (fieldN w)) := by
  simp [decode, h]

theorem decode_of_topNibble_E {w : Word} (h : topNibble w = 0xE) :
    decode w = decodeFamilyE w := by
  simp [decode, h]

theorem decodeFamily8_of_lowNibble_four {w : Word} (h : lowNibble w = 0x4) :
    decodeFamily8 w = .ok (.addReg (fieldX w) (fieldY w)) := by
  simp [decodeFamily8, h]

theorem decodeFamily8_of_lowNibble_five {w : Word} (h : lowNibble w = 0x5) :
    decodeFamily8 w = .ok (.sub (fieldX w) (fieldY w)) := by
  simp [decodeFamily8, h]

theorem decodeFamily8_of_lowNibble_six {w : Word} (h : lowNibble w = 0x6) :
    decodeFamily8 w = .ok (.shr (fieldX w) (fieldY w)) := by
  simp [decodeFamily8, h]

theorem decodeFamily8_of_lowNibble_seven {w : Word} (h : lowNibble w = 0x7) :
    decodeFamily8 w = .ok (.subn (fieldX w) (fieldY w)) := by
  simp [decodeFamily8, h]

theorem decodeFamily8_of_lowNibble_E {w : Word} (h : lowNibble w = 0xE) :
    decodeFamily8 w = .ok (.shl (fieldX w) (fieldY w)) := by
  simp [decodeFamily8, h]

theorem decodeFamilyE_of_fieldNN_9E {w : Word} (h : fieldNN w = 0x9E) :
    decodeFamilyE w = .ok (.skp (fieldX w)) := by
  simp [decodeFamilyE, h]

theorem decodeFamilyE_of_fieldNN_A1 {w : Word} (h : fieldNN w = 0xA1) :
    decodeFamilyE w = .ok (.sknp (fieldX w)) := by
  simp [decodeFamilyE, h]

theorem decodeFamilyF_of_fieldNN_0A {w : Word} (h : fieldNN w = 0x0A) :
    decodeFamilyF w = .ok (.ldVxK (fieldX w)) := by
  simp [decodeFamilyF, h]

theorem decodeFamilyF_of_fieldNN_1E {w : Word} (h : fieldNN w = 0x1E) :
    decodeFamilyF w = .ok (.addI (fieldX w)) := by
  simp [decodeFamilyF, h]

theorem decodeFamilyF_of_fieldNN_29 {w : Word} (h : fieldNN w = 0x29) :
    decodeFamilyF w = .ok (.ldF (fieldX w)) := by
  simp [decodeFamilyF, h]

theorem decodeFamilyF_of_fieldNN_33 {w : Word} (h : fieldNN w = 0x33) :
    decodeFamilyF w = .ok (.ldB (fieldX w)) := by
  simp [decodeFamilyF, h]

theorem decodeFamilyF_of_fieldNN_55 {w : Word} (h : fieldNN w = 0x55) :
    decodeFamilyF w = .ok (.stRegs (fieldX w)) := by
  simp [decodeFamilyF, h]

theorem decodeFamilyF_of_fieldNN_65 {w : Word} (h : fieldNN w = 0x65) :
    decodeFamilyF w = .ok (.ldRegs (fieldX w)) := by
  simp [decodeFamilyF, h]

/-- The fixed bits 0xF0FF with top nibble E leave the decoding to family E (R63). -/
theorem decode_of_familyE_bits {w value : Word} (hvalue : value.extractLsb' 12 4 = 0xE) (h : w &&& 0xF0FF = value) :
    decode w = decodeFamilyE w :=
  decode_of_topNibble_E ((extractLsb'_eq_of_and_eq rfl h).trans hvalue)

end Sys2Proof

namespace Sys2Proof.Machine

/-! ### The encoding lines -/

/-- The encoding line of R103. -/
theorem call_encodes : Encodes 0xF000 0x2000 (fun w => .call (fieldNNN w)) :=
  fun _ h => decode_of_topNibble_two (extractLsb'_eq_of_and_eq rfl h)

/-- The encoding line of R127. -/
theorem addReg_encodes : Encodes 0xF00F 0x8004 (fun w => .addReg (fieldX w) (fieldY w)) :=
  fun _ h => (decode_of_family8_bits rfl h).trans (decodeFamily8_of_lowNibble_four (extractLsb'_eq_of_and_eq rfl h))

/-- The encoding line of R128. -/
theorem sub_encodes : Encodes 0xF00F 0x8005 (fun w => .sub (fieldX w) (fieldY w)) :=
  fun _ h => (decode_of_family8_bits rfl h).trans (decodeFamily8_of_lowNibble_five (extractLsb'_eq_of_and_eq rfl h))

/-- The encoding line of R129. -/
theorem shr_encodes : Encodes 0xF00F 0x8006 (fun w => .shr (fieldX w) (fieldY w)) :=
  fun _ h => (decode_of_family8_bits rfl h).trans (decodeFamily8_of_lowNibble_six (extractLsb'_eq_of_and_eq rfl h))

/-- The encoding line of R130. -/
theorem subn_encodes : Encodes 0xF00F 0x8007 (fun w => .subn (fieldX w) (fieldY w)) :=
  fun _ h => (decode_of_family8_bits rfl h).trans (decodeFamily8_of_lowNibble_seven (extractLsb'_eq_of_and_eq rfl h))

/-- The encoding line of R131. -/
theorem shl_encodes : Encodes 0xF00F 0x800E (fun w => .shl (fieldX w) (fieldY w)) :=
  fun _ h => (decode_of_family8_bits rfl h).trans (decodeFamily8_of_lowNibble_E (extractLsb'_eq_of_and_eq rfl h))

/-- The encoding line of R132. -/
theorem rnd_encodes : Encodes 0xF000 0xC000 (fun w => .rnd (fieldX w) (fieldNN w)) :=
  fun _ h => decode_of_topNibble_C (extractLsb'_eq_of_and_eq rfl h)

/-- The encoding line of R92. -/
theorem drw_encodes : Encodes 0xF000 0xD000 (fun w => .drw (fieldX w) (fieldY w) (fieldN w)) :=
  fun _ h => decode_of_topNibble_D (extractLsb'_eq_of_and_eq rfl h)

/-- The encoding line of R151. -/
theorem skp_encodes : Encodes 0xF0FF 0xE09E (fun w => .skp (fieldX w)) :=
  fun _ h => (decode_of_familyE_bits rfl h).trans (decodeFamilyE_of_fieldNN_9E (extractLsb'_eq_of_and_eq rfl h))

/-- The encoding line of R152. -/
theorem sknp_encodes : Encodes 0xF0FF 0xE0A1 (fun w => .sknp (fieldX w)) :=
  fun _ h => (decode_of_familyE_bits rfl h).trans (decodeFamilyE_of_fieldNN_A1 (extractLsb'_eq_of_and_eq rfl h))

/-- The encoding line of R153. -/
theorem ldVxK_encodes : Encodes 0xF0FF 0xF00A (fun w => .ldVxK (fieldX w)) :=
  fun _ h => (decode_of_familyF_bits rfl h).trans (decodeFamilyF_of_fieldNN_0A (extractLsb'_eq_of_and_eq rfl h))

/-- The encoding line of R142. -/
theorem addI_encodes : Encodes 0xF0FF 0xF01E (fun w => .addI (fieldX w)) :=
  fun _ h => (decode_of_familyF_bits rfl h).trans (decodeFamilyF_of_fieldNN_1E (extractLsb'_eq_of_and_eq rfl h))

/-- The encoding line of R143. -/
theorem ldF_encodes : Encodes 0xF0FF 0xF029 (fun w => .ldF (fieldX w)) :=
  fun _ h => (decode_of_familyF_bits rfl h).trans (decodeFamilyF_of_fieldNN_29 (extractLsb'_eq_of_and_eq rfl h))

/-- The encoding line of R144. -/
theorem ldB_encodes : Encodes 0xF0FF 0xF033 (fun w => .ldB (fieldX w)) :=
  fun _ h => (decode_of_familyF_bits rfl h).trans (decodeFamilyF_of_fieldNN_33 (extractLsb'_eq_of_and_eq rfl h))

/-- The encoding line of R145. -/
theorem stRegs_encodes : Encodes 0xF0FF 0xF055 (fun w => .stRegs (fieldX w)) :=
  fun _ h => (decode_of_familyF_bits rfl h).trans (decodeFamilyF_of_fieldNN_55 (extractLsb'_eq_of_and_eq rfl h))

/-- The encoding line of R146. -/
theorem ldRegs_encodes : Encodes 0xF0FF 0xF065 (fun w => .ldRegs (fieldX w)) :=
  fun _ h => (decode_of_familyF_bits rfl h).trans (decodeFamilyF_of_fieldNN_65 (extractLsb'_eq_of_and_eq rfl h))

/-- Every row of the opcode map is the encoding line of its instruction (R64). -/
theorem opcodeRows_encode : ∀ row ∈ opcodeRows, Encodes row.mask row.value row.instr := by
  simp only [opcodeRows, opcodeRows0to7, opcodeRows8, opcodeRows9toF, List.cons_append, List.nil_append,
    List.forall_mem_cons]
  exact ⟨cls_encodes, ret_encodes, jp_encodes, call_encodes, seImm_encodes, sneImm_encodes, seReg_encodes,
    ldImm_encodes, addImm_encodes, ldReg_encodes, orReg_encodes, andReg_encodes, xorReg_encodes, addReg_encodes,
    sub_encodes, shr_encodes, subn_encodes, shl_encodes, sneReg_encodes, ldI_encodes, jpV0_encodes, rnd_encodes,
    drw_encodes, skp_encodes, sknp_encodes, ldVxDt_encodes, ldVxK_encodes, ldDtVx_encodes, ldStVx_encodes,
    addI_encodes, ldF_encodes, ldB_encodes, stRegs_encodes, ldRegs_encodes, List.forall_mem_nil _⟩

/-! ### Every decoded word lies in a row -/

/-- The word has the fixed bits of some row of the opcode map. -/
def InRow (w : Word) : Prop := ∃ row ∈ opcodeRows, w &&& row.mask = row.value

theorem inRow_of_masked (k : Nat) (hk : k < opcodeRows.length) {w masked : Word}
    (hw : w &&& opcodeRows[k].mask = masked) (hvalue : opcodeRows[k].value = masked) : InRow w :=
  ⟨opcodeRows[k], List.getElem_mem hk, hw.trans hvalue.symm⟩

/-- A row that fixes the top nibble. -/
theorem inRow_of_topNibble (k : Nat) (hk : k < opcodeRows.length) {w : Word} {op : BitVec 4} (htop : topNibble w = op)
    (hmask : opcodeRows[k].mask = 0xF000) (hvalue : opcodeRows[k].value = op ++ 0#12) : InRow w :=
  inRow_of_masked k hk (by rw [hmask, and_F000, htop]) hvalue

/-- A row that fixes the top nibble and the low byte. -/
theorem inRow_of_lowByte (k : Nat) (hk : k < opcodeRows.length) {w : Word} {op : BitVec 4} {low : Byte}
    (htop : topNibble w = op) (hlow : fieldNN w = low) (hmask : opcodeRows[k].mask = 0xF0FF)
    (hvalue : opcodeRows[k].value = op ++ (0#4 ++ low)) : InRow w :=
  inRow_of_masked k hk (by rw [hmask, and_F0FF, htop, hlow]) hvalue

/-- A row that fixes the top and the low nibble. -/
theorem inRow_of_lowNibble (k : Nat) (hk : k < opcodeRows.length) {w : Word} {op low : BitVec 4}
    (htop : topNibble w = op) (hlow : lowNibble w = low) (hmask : opcodeRows[k].mask = 0xF00F)
    (hvalue : opcodeRows[k].value = op ++ (0#4 ++ (0#4 ++ low))) : InRow w :=
  inRow_of_masked k hk (by rw [hmask, and_F00F, htop, hlow]) hvalue

theorem inRow_of_decodeFamily0 {w : Word} {i : Instr} (htop : topNibble w = 0x0)
    (h : decodeFamily0 w = .ok i) : InRow w := by
  unfold decodeFamily0 at h
  split at h
  next hlow => exact inRow_of_lowByte 0 (by decide) htop hlow rfl rfl
  next hlow => exact inRow_of_lowByte 1 (by decide) htop hlow rfl rfl
  next => cases h

theorem inRow_of_decodeFamily8 {w : Word} {i : Instr} (htop : topNibble w = 0x8)
    (h : decodeFamily8 w = .ok i) : InRow w := by
  unfold decodeFamily8 at h
  split at h
  next hlow => exact inRow_of_lowNibble 9 (by decide) htop hlow rfl rfl
  next hlow => exact inRow_of_lowNibble 10 (by decide) htop hlow rfl rfl
  next hlow => exact inRow_of_lowNibble 11 (by decide) htop hlow rfl rfl
  next hlow => exact inRow_of_lowNibble 12 (by decide) htop hlow rfl rfl
  next hlow => exact inRow_of_lowNibble 13 (by decide) htop hlow rfl rfl
  next hlow => exact inRow_of_lowNibble 14 (by decide) htop hlow rfl rfl
  next hlow => exact inRow_of_lowNibble 15 (by decide) htop hlow rfl rfl
  next hlow => exact inRow_of_lowNibble 16 (by decide) htop hlow rfl rfl
  next hlow => exact inRow_of_lowNibble 17 (by decide) htop hlow rfl rfl
  next => cases h

theorem inRow_of_decodeFamilyE {w : Word} {i : Instr} (htop : topNibble w = 0xE)
    (h : decodeFamilyE w = .ok i) : InRow w := by
  unfold decodeFamilyE at h
  split at h
  next hlow => exact inRow_of_lowByte 23 (by decide) htop hlow rfl rfl
  next hlow => exact inRow_of_lowByte 24 (by decide) htop hlow rfl rfl
  next => cases h

theorem inRow_of_decodeFamilyF {w : Word} {i : Instr} (htop : topNibble w = 0xF)
    (h : decodeFamilyF w = .ok i) : InRow w := by
  unfold decodeFamilyF at h
  split at h
  next hlow => exact inRow_of_lowByte 25 (by decide) htop hlow rfl rfl
  next hlow => exact inRow_of_lowByte 26 (by decide) htop hlow rfl rfl
  next hlow => exact inRow_of_lowByte 27 (by decide) htop hlow rfl rfl
  next hlow => exact inRow_of_lowByte 28 (by decide) htop hlow rfl rfl
  next hlow => exact inRow_of_lowByte 29 (by decide) htop hlow rfl rfl
  next hlow => exact inRow_of_lowByte 30 (by decide) htop hlow rfl rfl
  next hlow => exact inRow_of_lowByte 31 (by decide) htop hlow rfl rfl
  next hlow => exact inRow_of_lowByte 32 (by decide) htop hlow rfl rfl
  next hlow => exact inRow_of_lowByte 33 (by decide) htop hlow rfl rfl
  next => cases h

/-- The dispatch answers an instruction for words of the opcode map only (R66). -/
theorem inRow_of_decode {w : Word} {i : Instr} (h : decode w = .ok i) : InRow w := by
  unfold decode at h
  split at h
  next htop => exact inRow_of_decodeFamily0 htop h
  next htop => exact inRow_of_topNibble 2 (by decide) htop rfl rfl
  next htop => exact inRow_of_topNibble 3 (by decide) htop rfl rfl
  next htop => exact inRow_of_topNibble 4 (by decide) htop rfl rfl
  next htop => exact inRow_of_topNibble 5 (by decide) htop rfl rfl
  next htop => exact inRow_of_topNibble 6 (by decide) htop rfl rfl
  next htop => exact inRow_of_topNibble 7 (by decide) htop rfl rfl
  next htop => exact inRow_of_topNibble 8 (by decide) htop rfl rfl
  next htop => exact inRow_of_decodeFamily8 htop h
  next htop => exact inRow_of_topNibble 18 (by decide) htop rfl rfl
  next htop => exact inRow_of_topNibble 19 (by decide) htop rfl rfl
  next htop => exact inRow_of_topNibble 20 (by decide) htop rfl rfl
  next htop => exact inRow_of_topNibble 21 (by decide) htop rfl rfl
  next htop => exact inRow_of_topNibble 22 (by decide) htop rfl rfl
  next htop => exact inRow_of_decodeFamilyE htop h
  next =>
    have htop : topNibble w = 0xF := by
      generalize topNibble w = op at *
      revert op
      decide
    exact inRow_of_decodeFamilyF htop h

/-- Two rows that share a word agree on the bits both fix. -/
theorem value_and_eq_of_shared {r q : OpcodeRow} {w : Word} (hr : w &&& r.mask = r.value)
    (hq : w &&& q.mask = q.value) : r.value &&& q.mask = q.value &&& r.mask := by
  rw [← hr, ← hq, BitVec.and_assoc, BitVec.and_assoc, BitVec.and_comm r.mask]

/-- Any two rows fix some bit to different values. -/
theorem opcodeRows_conflict : opcodeRows.Pairwise fun r q => r.value &&& q.mask ≠ q.value &&& r.mask := by decide

/-- Settles O13: the encoding lines, the converse by which a decoded word lies in a row, and for each two rows a bit on
which they disagree. -/
theorem dispatchIsTheOpcodeMap : Obligations.DispatchIsTheOpcodeMap := by
  refine ⟨rfl, opcodeRows_encode, fun w hnone => ?_, opcodeRows_conflict.imp fun hne w ⟨hr, hq⟩ =>
    hne (value_and_eq_of_shared hr hq)⟩
  cases hdec : decode w with
  | error why => exact ⟨why, rfl⟩
  | ok i =>
    obtain ⟨row, hmem, hbits⟩ := inRow_of_decode hdec
    exact absurd hbits (hnone row hmem)

/-! ### Decoding a canonical word -/

/-- A canonical word with the fixed bits of an encoding line, and with the operands where the line reads them. -/
theorem Encodes.decode_encode {mask value : Word} {instr : Word → Instr} {i : Instr} (henc : Encodes mask value instr)
    (hfixed : encode i &&& mask = value) (hread : instr (encode i) = i) : decode (encode i) = .ok i := by
  rw [henc _ hfixed, hread]

/-- Settles O14: by the encoding line of each instruction, whose fixed bits its canonical word has, and whose operands
it reads back from the format. -/
theorem decodeOfEncodeIsTheInstruction : Obligations.DecodeOfEncodeIsTheInstruction := by
  intro i hwf
  cases i with
  | cls => exact cls_encodes.decode_encode rfl rfl
  | ret => exact ret_encodes.decode_encode rfl rfl
  | jp nnn => exact jp_encodes.decode_encode (formatA_fixed 0x1 nnn) (by simp [encode])
  | call nnn => exact call_encodes.decode_encode (formatA_fixed 0x2 nnn) (by simp [encode])
  | seImm x nn => exact seImm_encodes.decode_encode (formatX_fixed 0x3 x nn) (by simp [encode])
  | sneImm x nn => exact sneImm_encodes.decode_encode (formatX_fixed 0x4 x nn) (by simp [encode])
  | seReg x y => exact seReg_encodes.decode_encode (formatR_fixed 0x5 x y 0x0) (by simp [encode])
  | ldImm x nn => exact ldImm_encodes.decode_encode (formatX_fixed 0x6 x nn) (by simp [encode])
  | addImm x nn => exact addImm_encodes.decode_encode (formatX_fixed 0x7 x nn) (by simp [encode])
  | ldReg x y => exact ldReg_encodes.decode_encode (formatR_fixed_low 0x8 x y 0x0) (by simp [encode])
  | orReg x y => exact orReg_encodes.decode_encode (formatR_fixed_low 0x8 x y 0x1) (by simp [encode])
  | andReg x y => exact andReg_encodes.decode_encode (formatR_fixed_low 0x8 x y 0x2) (by simp [encode])
  | xorReg x y => exact xorReg_encodes.decode_encode (formatR_fixed_low 0x8 x y 0x3) (by simp [encode])
  | addReg x y => exact addReg_encodes.decode_encode (formatR_fixed_low 0x8 x y 0x4) (by simp [encode])
  | sub x y => exact sub_encodes.decode_encode (formatR_fixed_low 0x8 x y 0x5) (by simp [encode])
  | shr x y => exact shr_encodes.decode_encode (formatR_fixed_low 0x8 x y 0x6) (by simp [encode])
  | subn x y => exact subn_encodes.decode_encode (formatR_fixed_low 0x8 x y 0x7) (by simp [encode])
  | shl x y => exact shl_encodes.decode_encode (formatR_fixed_low 0x8 x y 0xE) (by simp [encode])
  | sneReg x y => exact sneReg_encodes.decode_encode (formatR_fixed 0x9 x y 0x0) (by simp [encode])
  | ldI nnn => exact ldI_encodes.decode_encode (formatA_fixed 0xA nnn) (by simp [encode])
  | jpV0 nnn => exact jpV0_encodes.decode_encode (formatA_fixed 0xB nnn) (by simp [encode])
  | rnd x nn => exact rnd_encodes.decode_encode (formatX_fixed 0xC x nn) (by simp [encode])
  | drw x y n =>
    have hn : n % 16 = n := Nat.mod_eq_of_lt (of_decide_eq_true hwf)
    exact drw_encodes.decode_encode (formatR_fixed 0xD x y _) (by simp [encode, hn])
  | skp x => exact skp_encodes.decode_encode (formatX_fixed_low 0xE x 0x9E) (by simp [encode])
  | sknp x => exact sknp_encodes.decode_encode (formatX_fixed_low 0xE x 0xA1) (by simp [encode])
  | ldVxDt x => exact ldVxDt_encodes.decode_encode (formatX_fixed_low 0xF x 0x07) (by simp [encode])
  | ldVxK x => exact ldVxK_encodes.decode_encode (formatX_fixed_low 0xF x 0x0A) (by simp [encode])
  | ldDtVx x => exact ldDtVx_encodes.decode_encode (formatX_fixed_low 0xF x 0x15) (by simp [encode])
  | ldStVx x => exact ldStVx_encodes.decode_encode (formatX_fixed_low 0xF x 0x18) (by simp [encode])
  | addI x => exact addI_encodes.decode_encode (formatX_fixed_low 0xF x 0x1E) (by simp [encode])
  | ldF x => exact ldF_encodes.decode_encode (formatX_fixed_low 0xF x 0x29) (by simp [encode])
  | ldB x => exact ldB_encodes.decode_encode (formatX_fixed_low 0xF x 0x33) (by simp [encode])
  | stRegs x => exact stRegs_encodes.decode_encode (formatX_fixed_low 0xF x 0x55) (by simp [encode])
  | ldRegs x => exact ldRegs_encodes.decode_encode (formatX_fixed_low 0xF x 0x65) (by simp [encode])

/-! ### The canonical word of a decoded instruction -/

/-- The bits of a word with top nibble `op` that its instruction determines: all but the ignored ones (R65). -/
def keptMask (op : BitVec 4) : Word :=
  if op = 0x0 then 0xF0FF else if op = 0x5 ∨ op = 0x9 then 0xFFF0 else 0xFFFF

/-- `i` is well-formed, and its canonical word is `w` with the ignored bits cleared. -/
def IsCanonical (w : Word) (i : Instr) : Prop := i.wellFormed = true ∧ encode i = w &&& keptMask (topNibble w)

section
variable {w value : Word} {op : BitVec 4} {i : Instr}

theorem isCanonical_of_eq (htop : topNibble w = op) (hall : keptMask op = 0xFFFF) (hwf : i.wellFormed = true)
    (henc : encode i = w) : IsCanonical w i :=
  ⟨hwf, by rw [henc, htop, hall, show (0xFFFF : Word) = BitVec.allOnes 16 from rfl, BitVec.and_allOnes]⟩

/-- 00E0 and 00EE: bits 11:8 are ignored. -/
theorem isCanonical_of_family0 (hbits : w &&& 0xF0FF = value) (hvalue : value.extractLsb' 12 4 = 0x0)
    (hwf : i.wellFormed = true) (henc : encode i = value) : IsCanonical w i := by
  have htop : topNibble w = 0 := (extractLsb'_eq_of_and_eq rfl hbits).trans hvalue
  refine ⟨hwf, ?_⟩
  rw [henc, htop, ← hbits]
  rfl

/-- 5XY0 and 9XY0: bits 3:0 are ignored. -/
theorem isCanonical_of_ignored_nibble (hbits : w &&& 0xF000 = value) (hop : value.extractLsb' 12 4 = op)
    (hmask : keptMask op = 0xFFF0) (hwf : i.wellFormed = true) (henc : encode i = formatR op (fieldX w) (fieldY w) 0) :
    IsCanonical w i := by
  have htop : topNibble w = op := (extractLsb'_eq_of_and_eq rfl hbits).trans hop
  refine ⟨hwf, ?_⟩
  rw [henc, htop, hmask, and_FFF0, htop]

theorem isCanonical_of_formatA (hbits : w &&& 0xF000 = value) (hop : value.extractLsb' 12 4 = op)
    (hall : keptMask op = 0xFFFF) (hwf : i.wellFormed = true) (henc : encode i = formatA op (fieldNNN w)) :
    IsCanonical w i := by
  have htop : topNibble w = op := (extractLsb'_eq_of_and_eq rfl hbits).trans hop
  exact isCanonical_of_eq htop hall hwf (by rw [henc, ← htop, formatA_of_fields])

theorem isCanonical_of_formatX (hbits : w &&& 0xF000 = value) (hop : value.extractLsb' 12 4 = op)
    (hall : keptMask op = 0xFFFF) (hwf : i.wellFormed = true)
    (henc : encode i = formatX op (fieldX w) (fieldNN w)) : IsCanonical w i := by
  have htop : topNibble w = op := (extractLsb'_eq_of_and_eq rfl hbits).trans hop
  exact isCanonical_of_eq htop hall hwf (by rw [henc, ← htop, formatX_of_fields])

theorem isCanonical_of_fixed_low_byte (hbits : w &&& 0xF0FF = value) (hop : value.extractLsb' 12 4 = op)
    (hall : keptMask op = 0xFFFF) (hwf : i.wellFormed = true)
    (henc : encode i = formatX op (fieldX w) (value.extractLsb' 0 8)) : IsCanonical w i := by
  have htop : topNibble w = op := (extractLsb'_eq_of_and_eq rfl hbits).trans hop
  have hlow : fieldNN w = value.extractLsb' 0 8 := extractLsb'_eq_of_and_eq rfl hbits
  exact isCanonical_of_eq htop hall hwf (by rw [henc, ← htop, ← hlow, formatX_of_fields])

theorem isCanonical_of_fixed_low_nibble (hbits : w &&& 0xF00F = value) (hop : value.extractLsb' 12 4 = op)
    (hall : keptMask op = 0xFFFF) (hwf : i.wellFormed = true)
    (henc : encode i = formatR op (fieldX w) (fieldY w) (value.extractLsb' 0 4)) : IsCanonical w i := by
  have htop : topNibble w = op := (extractLsb'_eq_of_and_eq rfl hbits).trans hop
  have hlow : lowNibble w = value.extractLsb' 0 4 := extractLsb'_eq_of_and_eq rfl hbits
  exact isCanonical_of_eq htop hall hwf (by rw [henc, ← htop, ← hlow, formatR_of_fields])

/-- DXYN: the row count read from a word fits its nibble. -/
theorem isCanonical_of_drw (hbits : w &&& 0xF000 = 0xD000) :
    IsCanonical w (.drw (fieldX w) (fieldY w) (fieldN w)) := by
  have htop : topNibble w = 0xD := extractLsb'_eq_of_and_eq rfl hbits
  have hcount : BitVec.ofNat 4 (fieldN w) = lowNibble w := (BitVec.ofNat_toNat 4 _).trans (BitVec.setWidth_eq _)
  refine isCanonical_of_eq htop rfl (decide_eq_true (fieldN_lt w)) ?_
  rw [encode, hcount, ← htop, formatR_of_fields]

end

/-- A row reads from each of its words an instruction whose canonical word is that word, but for the ignored bits. -/
def RowCanonical (row : OpcodeRow) : Prop := ∀ w, w &&& row.mask = row.value → IsCanonical w (row.instr w)

theorem opcodeRows0to7_canonical : ∀ row ∈ opcodeRows0to7, RowCanonical row := by
  simp only [opcodeRows0to7, List.forall_mem_cons]
  exact ⟨fun _ h => isCanonical_of_family0 h rfl rfl rfl, fun _ h => isCanonical_of_family0 h rfl rfl rfl,
    fun _ h => isCanonical_of_formatA h rfl rfl rfl rfl, fun _ h => isCanonical_of_formatA h rfl rfl rfl rfl,
    fun _ h => isCanonical_of_formatX h rfl rfl rfl rfl, fun _ h => isCanonical_of_formatX h rfl rfl rfl rfl,
    fun _ h => isCanonical_of_ignored_nibble h rfl rfl rfl rfl, fun _ h => isCanonical_of_formatX h rfl rfl rfl rfl,
    fun _ h => isCanonical_of_formatX h rfl rfl rfl rfl, List.forall_mem_nil _⟩

theorem opcodeRows8_canonical : ∀ row ∈ opcodeRows8, RowCanonical row := by
  simp only [opcodeRows8, List.forall_mem_cons]
  refine ⟨?_, ?_, ?_, ?_, ?_, ?_, ?_, ?_, ?_, List.forall_mem_nil _⟩
  all_goals exact fun _ h => isCanonical_of_fixed_low_nibble h rfl rfl rfl rfl

theorem opcodeRows9toF_canonical : ∀ row ∈ opcodeRows9toF, RowCanonical row := by
  simp only [opcodeRows9toF, List.forall_mem_cons]
  refine ⟨fun _ h => isCanonical_of_ignored_nibble h rfl rfl rfl rfl,
    fun _ h => isCanonical_of_formatA h rfl rfl rfl rfl, fun _ h => isCanonical_of_formatA h rfl rfl rfl rfl,
    fun _ h => isCanonical_of_formatX h rfl rfl rfl rfl, fun _ h => isCanonical_of_drw h,
    ?_, ?_, ?_, ?_, ?_, ?_, ?_, ?_, ?_, ?_, ?_, List.forall_mem_nil _⟩
  all_goals exact fun _ h => isCanonical_of_fixed_low_byte h rfl rfl rfl rfl

theorem opcodeRows_canonical : ∀ row ∈ opcodeRows, RowCanonical row := by
  simp only [opcodeRows, List.forall_mem_append]
  exact ⟨opcodeRows0to7_canonical, opcodeRows8_canonical, opcodeRows9toF_canonical⟩

/-- A decoded word is canonical but for the ignored bits, by the row it lies in. -/
theorem isCanonical_of_decode {w : Word} {i : Instr} (h : decode w = .ok i) : IsCanonical w i := by
  obtain ⟨row, hmem, hbits⟩ := inRow_of_decode h
  have hread : row.instr w = i := Except.ok.inj ((opcodeRows_encode row hmem w hbits).symm.trans h)
  exact hread ▸ opcodeRows_canonical row hmem w hbits

/-- Settles O15: the three clauses are the three cases of the mask of kept bits. -/
theorem decodedWordIsCanonicalUpToIgnoredBits : Obligations.DecodedWordIsCanonicalUpToIgnoredBits := by
  intro w i h
  obtain ⟨hwf, henc⟩ := isCanonical_of_decode h
  refine ⟨hwf, fun h0 => ?_, fun h59 => ?_, fun h0 h5 h9 => ?_⟩
  · rw [henc, h0]
    rfl
  · rcases h59 with h5 | h9
    · rw [henc, h5]
      rfl
    · rw [henc, h9]
      rfl
  · have hall : keptMask (topNibble w) = BitVec.allOnes 16 :=
      (if_neg h0).trans (if_neg (not_or.2 ⟨h5, h9⟩))
    rw [henc, hall, BitVec.and_allOnes]

/-- Settles O16: each word is written out, so the decoder runs on it. -/
theorem sampleWordsDecodeAsTheSpecSays : Obligations.SampleWordsDecodeAsTheSpecSays :=
  ⟨rfl, rfl, rfl, rfl, rfl, rfl, rfl, rfl, rfl, rfl, rfl, rfl⟩

end Sys2Proof.Machine
end

section
/-! The column "written by" of the state table (10_state.md R10): the frame of each shared operation, each instruction
as the operations it is made of, and from both the frame of every instruction. -/

namespace Sys2Proof.Machine

/-! ### The frames of the shared operations -/

theorem AgreeOn.refl (part : Item) (s : State) : AgreeOn part s s := by
  cases part <;> simp [AgreeOn]

theorem OnlyChanges.refl (parts : List Item) (s : State) : OnlyChanges parts s s := fun part _ => AgreeOn.refl part s

/-- Two changes in a row change what either of them lists. -/
theorem OnlyChanges.append {parts more : List Item} {s t u : State} (h1 : OnlyChanges parts s t)
    (h2 : OnlyChanges more t u) : OnlyChanges (parts ++ more) s u :=
  (h1.mono fun _ => List.mem_append_left _).trans (h2.mono fun _ => List.mem_append_right _)

theorem State.memWrite_onlyChanges (s : State) (a : Nat) (b : Byte) : OnlyChanges [.mem] s (s.memWrite a b) := by
  intro part hp
  cases part
  case mem => simp at hp
  all_goals simp [AgreeOn]

/-- FX33's three stores. -/
theorem State.storeDigits_onlyChanges (s : State) (b0 b1 b2 : Byte) : OnlyChanges [.mem] s
    (((s.memWrite (s.indexed 0) b0).memWrite (s.indexed 1) b1).memWrite (s.indexed 2) b2) :=
  ((s.memWrite_onlyChanges _ _).trans (State.memWrite_onlyChanges _ _ _)).trans (State.memWrite_onlyChanges _ _ _)

theorem State.storeRun_onlyChanges (n : Nat) (s : State) : OnlyChanges [.mem] s (State.storeRun n s) := by
  induction n with
  | zero => exact OnlyChanges.refl _ s
  | succ n ih => exact ih.trans (State.memWrite_onlyChanges _ _ _)

theorem State.loadRun_onlyChanges (n : Nat) (s : State) : OnlyChanges [.v] s (State.loadRun n s) := by
  induction n with
  | zero => exact OnlyChanges.refl _ s
  | succ n ih => exact ih.trans (State.setV_onlyChanges _ _ _)

theorem State.setCell_onlyChanges (s : State) (x : Column) (y : Row) (b : Bool) :
    OnlyChanges [.fb] s (s.setCell x y b) := by
  intro part hp
  cases part
  case fb => simp at hp
  all_goals simp [AgreeOn]

theorem State.drawPixel_onlyChanges (s : State) (x : Column) (y : Row) :
    OnlyChanges [.v, .fb] s (s.drawPixel x y) := by
  unfold State.drawPixel
  split
  · exact (s.setV_onlyChanges _ _).append (State.setCell_onlyChanges _ _ _ _)
  · exact (s.setCell_onlyChanges _ _ _).mono (by simp)

theorem State.drawCols_onlyChanges (b x0 : Byte) (y : Row) (n : Nat) (s : State) :
    OnlyChanges [.v, .fb] s (State.drawCols b x0 y n s) := by
  induction n with
  | zero => exact OnlyChanges.refl _ s
  | succ n ih =>
    simp only [State.drawCols]
    split
    · exact ih.trans (State.drawPixel_onlyChanges _ _ _)
    · exact ih

theorem State.drawRows_onlyChanges (x0 y0 : Byte) (n : Nat) (s : State) :
    OnlyChanges [.v, .fb] s (State.drawRows x0 y0 n s) := by
  induction n with
  | zero => exact OnlyChanges.refl _ s
  | succ n ih => exact ih.trans (State.drawCols_onlyChanges _ _ _ _ _)

theorem State.stackWrite_onlyChanges (s : State) (k : Slot) (w : Word) : OnlyChanges [.stack] s (s.stackWrite k w) := by
  intro part hp
  cases part
  case stack => simp at hp
  all_goals simp [AgreeOn]

theorem State.push_onlyChanges (s : State) (w : Word) : OnlyChanges [.stack, .sp] s (s.push w) :=
  (s.stackWrite_onlyChanges _ w).append (State.setSp_onlyChanges _ _)

theorem State.raise_onlyChanges (s : State) (e : Err) : OnlyChanges [.err, .wentWrong] s (s.raise e) := by
  intro part hp
  cases part
  case err | wentWrong => simp at hp
  all_goals simp [AgreeOn]

theorem State.refreshRnd_onlyChanges (s : State) : OnlyChanges [.rnd, .rndDraws] s s.refreshRnd := by
  intro part hp
  cases part
  case rnd | rndDraws => simp at hp
  all_goals simp [AgreeOn]

theorem State.flagThenValue_onlyChanges (s : State) (flag : Byte) (x : Reg) (value : State → Byte) :
    OnlyChanges [.v, .pc] s (s.flagThenValue flag x value) :=
  ((s.setV_onlyChanges Reg.F flag).trans (State.setV_onlyChanges _ x _)).advance

/-! ### The instructions as operations -/

section
variable (x y : Reg) (s : State)

theorem exec_call_full (nnn : Addr) (h : s.sp.val = 16) : exec (.call nnn) s = .next (s.raise .stackOverflow) :=
  if_pos h

theorem exec_call_room (nnn : Addr) (h : s.sp.val ≠ 16) :
    exec (.call nnn) s = .next ((s.push s.pc).setPc (zextAddr nnn)) :=
  if_neg h

theorem exec_addReg : exec (.addReg x y) s =
    .next (s.flagThenValue (carryFlag (s.getV x) (s.getV y)) x fun t => t.getV x + t.getV y) := rfl

theorem exec_sub : exec (.sub x y) s =
    .next (s.flagThenValue (noBorrowFlag (s.getV x) (s.getV y)) x fun t => t.getV x - t.getV y) := rfl

theorem exec_subn : exec (.subn x y) s =
    .next (s.flagThenValue (noBorrowFlag (s.getV y) (s.getV x)) x fun t => t.getV y - t.getV x) := rfl

theorem exec_shr : exec (.shr x y) s =
    .next (s.flagThenValue (lowBitFlag (s.getV x)) x fun t => t.getV x >>> 1) := rfl

theorem exec_shl : exec (.shl x y) s =
    .next (s.flagThenValue (highBitFlag (s.getV x)) x fun t => t.getV x <<< 1) := rfl

theorem exec_rnd (nn : Byte) : exec (.rnd x nn) s = .next (s.setV x (s.rnd &&& nn)).refreshRnd.advance := rfl

theorem exec_drw (n : Nat) : exec (.drw x y n) s =
    .next (State.drawRows (s.getV x) (s.getV y) n (s.setV Reg.F 0)).advance := rfl

theorem exec_skp : exec (.skp x) s = .next (s.skipIf (s.pressed (keySlot (s.getV x)))) := rfl

theorem exec_sknp : exec (.sknp x) s = .next (s.skipIf (!s.pressed (keySlot (s.getV x)))) := rfl

theorem exec_ldVxK_some {k : Key} (h : s.firstPressed = some k) :
    exec (.ldVxK x) s = .next (s.setV x (BitVec.ofNat 8 k.val)).advance := by
  simp only [exec, execLdVxK, h]

theorem exec_ldVxK_none (h : s.firstPressed = none) : exec (.ldVxK x) s = .next s := by
  simp only [exec, execLdVxK, h]

theorem exec_addI : exec (.addI x) s =
    .next ((s.setV Reg.F (indexOverflowFlag (s.getV x) s.i)).setI
      (indexSum s.i ((s.setV Reg.F (indexOverflowFlag (s.getV x) s.i)).getV x))).advance := rfl

theorem exec_ldF : exec (.ldF x) s = .next (s.setI (glyphAddr (s.getV x))).advance := rfl

theorem exec_ldB : exec (.ldB x) s =
    .next (((s.memWrite (s.indexed 0) (hundreds (s.getV x))).memWrite (s.indexed 1) (tens (s.getV x))).memWrite
      (s.indexed 2) (ones (s.getV x))).advance := rfl

theorem exec_stRegs : exec (.stRegs x) s = .next (State.storeRun (x.val + 1) s).advance := rfl

theorem exec_ldRegs : exec (.ldRegs x) s = .next (State.loadRun (x.val + 1) s).advance := rfl

end

/-! ### The frame of every instruction -/

/-- An outcome has one next state. -/
theorem next_unique {o : Host.Outcome State Fault Refusal} {t u : State} (ht : o = .next t) (hu : o = .next u) :
    t = u :=
  Host.Outcome.next.inj (ht.symm.trans hu)

/-- The frame of the state an instruction is known to leave, in a longer list of parts. -/
theorem onlyChanges_of_exec {o : Host.Outcome State Fault Refusal} {parts more : List Item} {s t u : State}
    (ht : o = .next t) (hu : o = .next u) (hframe : OnlyChanges parts s u)
    (hsub : ∀ part, part ∈ parts → part ∈ more) : OnlyChanges more s t :=
  next_unique hu ht ▸ hframe.mono hsub

/-- No instruction changes a part it is not listed to write. -/
theorem exec_onlyChanges {i : Instr} {s t : State} (h : exec i s = .next t) : OnlyChanges (mayWrite i) s t := by
  cases i
  case cls => exact onlyChanges_of_exec h (exec_cls s) s.clearCells_advance_onlyChanges (by simp [mayWrite])
  case ret => exact onlyChanges_of_exec h (exec_ret s) (s.popSp_setPc_onlyChanges _) (by simp [mayWrite])
  case call nnn =>
    by_cases hfull : s.sp.val = 16
    · exact onlyChanges_of_exec h (exec_call_full s nnn hfull) (s.raise_onlyChanges _) (by simp [mayWrite])
    · exact onlyChanges_of_exec h (exec_call_room s nnn hfull)
        ((s.push_onlyChanges _).append (State.setPc_onlyChanges _ _)) (by simp [mayWrite])
  case jp | jpV0 => exact onlyChanges_of_exec h rfl (s.setPc_onlyChanges _) (by simp [mayWrite])
  case seImm | sneImm | seReg | sneReg | skp | sknp =>
    exact onlyChanges_of_exec h rfl (s.skipIf_onlyChanges _) (by simp [mayWrite])
  case ldImm | addImm | ldReg | orReg | andReg | xorReg | ldVxDt =>
    exact onlyChanges_of_exec h rfl (s.setV_advance_onlyChanges _ _) (by simp [mayWrite])
  case ldVxK x =>
    cases hkey : s.firstPressed with
    | some k =>
      exact onlyChanges_of_exec h (exec_ldVxK_some x s hkey) (s.setV_advance_onlyChanges x _) (by simp [mayWrite])
    | none => exact onlyChanges_of_exec h (exec_ldVxK_none x s hkey) (OnlyChanges.refl [] s) (by simp)
  case addReg | sub | subn | shr | shl =>
    exact onlyChanges_of_exec h rfl (s.flagThenValue_onlyChanges _ _ _) (by simp [mayWrite])
  case rnd x nn =>
    exact onlyChanges_of_exec h (exec_rnd x s nn)
      ((s.setV_onlyChanges x _).append (State.refreshRnd_onlyChanges _)).advance (by simp [mayWrite])
  case drw x y n =>
    exact onlyChanges_of_exec h (exec_drw x y s n)
      ((s.setV_onlyChanges Reg.F 0).append (State.drawRows_onlyChanges _ _ n _)).advance (by simp [mayWrite])
  case ldI | ldF => exact onlyChanges_of_exec h rfl (s.setI_advance_onlyChanges _) (by simp [mayWrite])
  case addI x =>
    exact onlyChanges_of_exec h (exec_addI x s)
      ((s.setV_onlyChanges Reg.F _).append (State.setI_onlyChanges _ _)).advance (by simp [mayWrite])
  case ldB x =>
    exact onlyChanges_of_exec h (exec_ldB x s) (s.storeDigits_onlyChanges _ _ _).advance (by simp [mayWrite])
  case stRegs x => exact onlyChanges_of_exec h (exec_stRegs x s) (s.storeRun_onlyChanges _).advance (by simp [mayWrite])
  case ldRegs x => exact onlyChanges_of_exec h (exec_ldRegs x s) (s.loadRun_onlyChanges _).advance (by simp [mayWrite])
  case ldDtVx => exact onlyChanges_of_exec h rfl (s.setDt_onlyChanges _).advance (by simp [mayWrite])
  case ldStVx => exact onlyChanges_of_exec h rfl (s.setSt_onlyChanges _).advance (by simp [mayWrite])

/-- Settles O42: the frame of each instruction is the join of the frames of its operations. -/
theorem everyPartHasOnlyItsWriters : Obligations.EveryPartHasOnlyItsWriters :=
  fun _ _ _ h => exec_onlyChanges h

end Sys2Proof.Machine
end

section
/-! The cycle around the executor phase (40_cycle.md R80 to R86), the two errors (60_exceptions.md R170 to R176), and
the invariant of the machine along cycles and sessions (10_state.md R15, 20_memory.md R46). -/

namespace Sys2Proof.Machine

/-! ### Fetch, tick and the unknown word as frames -/

theorem State.beginCycle_onlyChanges (s : State) : OnlyChanges [.opcode, .err] s s.beginCycle := by
  intro part hp
  cases part
  case opcode | err => simp at hp
  all_goals simp [AgreeOn, State.beginCycle]

theorem State.tick_onlyChanges (s : State) : OnlyChanges [.dt, .st, .soundEdge] s s.tick := by
  intro part hp
  cases part
  case dt | st | soundEdge => simp at hp
  all_goals simp [AgreeOn]

/-- What a cycle adds around its executor phase. -/
theorem OnlyChanges.cycle {parts : List Item} {s u : State} (h : OnlyChanges parts s.beginCycle u) :
    OnlyChanges ([.opcode, .err] ++ parts ++ [.dt, .st, .soundEdge]) s u.tick :=
  (s.beginCycle_onlyChanges.append h).append u.tick_onlyChanges

/-! ### What a cycle can do -/

/-- `u` is what the executor phase of a cycle from `s` leaves. -/
inductive Executes (s u : State) : Prop where
  /-- The word at PC decodes, and its instruction runs. -/
  | instr (i : Instr) (hdec : decode s.fetchWord = .ok i) (hexec : exec i s.beginCycle = .next u)
  /-- The word at PC is unknown, and is reported. -/
  | unknown (why : UnknownWord) (hdec : decode s.fetchWord = .error why) (hraise : u = s.beginCycle.unknownOpcode)

/-- Every cycle has an executor phase, and ends with the tick of what it left. -/
theorem step_executes (s : State) : ∃ u, Executes s u ∧ step s = .next u.tick := by
  cases hdec : decode s.fetchWord with
  | ok i =>
    obtain ⟨u, hexec⟩ := exec_answers_next i s.beginCycle
    exact ⟨u, .instr i hdec hexec, step_of_exec hdec hexec⟩
  | error why => exact ⟨_, .unknown why hdec rfl, step_of_unknown hdec⟩

/-- The inversion of a cycle. -/
theorem executes_of_step {s t : State} (h : step s = .next t) : ∃ u, Executes s u ∧ t = u.tick := by
  obtain ⟨u, hu, hstep⟩ := step_executes s
  exact ⟨u, hu, next_unique h hstep⟩

/-- Settles O9: the fetch latches the word and clears ERR, the instruction answers a next state, and the tick follows
it. -/
theorem stepRunsTheDecodedInstruction : Obligations.StepRunsTheDecodedInstruction := by
  intro s i hdec
  obtain ⟨t, hexec⟩ := exec_answers_next i s.beginCycle
  exact ⟨rfl, rfl, s.beginCycle_onlyChanges, t, hexec, step_of_exec hdec hexec⟩

/-- ST is 1 as a byte and as a number alike. -/
theorem State.tick_soundEdge_iff_toNat (s : State) : s.tick.soundEdge = true ↔ s.st.toNat = 1 :=
  s.tick_soundEdge_iff.trans BitVec.toNat_inj.symm

/-- Settles O11: the state `u` is that of the executor phase, whose two clauses exclude each other. -/
theorem everyCycleEndsWithTheTick : Obligations.EveryCycleEndsWithTheTick := by
  refine ⟨fun s => ?_, fun u => ⟨u.tick_dt_toNat, u.tick_st_toNat, u.tick_soundEdge_iff_toNat, u.tick_onlyChanges⟩⟩
  obtain ⟨u, hu, hstep⟩ := step_executes s
  refine ⟨u, fun i hi => ?_, fun why hwhy => ?_, hstep⟩
  · cases hu with
    | instr j hdec hexec => exact Except.ok.inj (hdec.symm.trans hi) ▸ hexec
    | unknown why hdec => rw [hdec] at hi; cases hi
  · cases hu with
    | instr j hdec => rw [hdec] at hwhy; cases hwhy
    | unknown _ _ hraise => exact hraise

/-- Settles O10: the cycle is the raise on the fetched state, then the tick. -/
theorem unknownWordIsReportedAndPcStays : Obligations.UnknownWordIsReportedAndPcStays := by
  intro s why hdec
  have hframe : OnlyChanges [.opcode, .err, .err, .wentWrong, .dt, .st, .soundEdge] s s.beginCycle.unknownOpcode.tick :=
    (State.raise_onlyChanges s.beginCycle _).cycle
  exact ⟨_, step_of_unknown hdec, rfl, rfl, rfl, State.tick_dt_toNat _, State.tick_st_toNat _,
    State.tick_soundEdge_iff _, hframe.mono (by simp)⟩

/-- Settles O12: the loads write the timer before the tick, and FX07 reads DT before it. -/
theorem loadedTimerIsTickedInTheSameCycle : Obligations.LoadedTimerIsTickedInTheSameCycle := by
  intro s x
  refine ⟨fun hdec => ?ldDtVx, fun hdec => ?ldStVx, fun hdec => ?ldVxDt⟩
  case ldDtVx => exact ⟨_, step_of_exec hdec (exec_ldDtVx x _), State.tick_dt_toNat _⟩
  case ldStVx =>
    exact ⟨_, step_of_exec hdec (exec_ldStVx x _), State.tick_st_toNat _, State.tick_soundEdge_iff_toNat _⟩
  case ldVxDt =>
    exact ⟨_, step_of_exec hdec (exec_ldVxDt x _), s.beginCycle.getV_setV_same x _, State.tick_dt_toNat _⟩

/-! ### The two errors -/

/-- ERR and the fault bit are written by an overflowing 2NNN alone. -/
theorem exec_keeps_err {i : Instr} {s t : State} (h : exec i s = .next t)
    (hok : ¬ (s.sp.val = 16 ∧ ∃ nnn, i = .call nnn)) : t.err = s.err ∧ t.wentWrong = s.wentWrong := by
  by_cases hcall : ∃ nnn, i = .call nnn
  · obtain ⟨nnn, rfl⟩ := hcall
    have hroom : s.sp.val ≠ 16 := fun hfull => hok ⟨hfull, nnn, rfl⟩
    have hpush := s.push_onlyChanges s.pc
    obtain rfl := next_unique h (exec_call_room s nnn hroom)
    exact ⟨hpush.keeps .err, hpush.keeps .wentWrong⟩
  · have hparts : .err ∉ mayWrite i ∧ .wentWrong ∉ mayWrite i := by
      cases i
      case call nnn => exact absurd ⟨nnn, rfl⟩ hcall
      all_goals simp [mayWrite]
    exact ⟨exec_onlyChanges h .err hparts.1, exec_onlyChanges h .wentWrong hparts.2⟩

/-- What ERR and the fault bit are after a cycle, by the three kinds of cycle. -/
inductive Reports (s t : State) : Prop where
  /-- The word is unknown. -/
  | unknown (why : UnknownWord) (hdec : decode s.fetchWord = .error why) (herr : t.err = .unknownOpcode s.fetchWord)
      (hwrong : t.wentWrong = true)
  /-- A 2NNN finds the stack full. -/
  | overflow (nnn : Addr) (hdec : decode s.fetchWord = .ok (.call nnn)) (hfull : s.sp.val = 16)
      (herr : t.err = .stackOverflow) (hwrong : t.wentWrong = true)
  /-- Any other instruction. -/
  | nothing (i : Instr) (hdec : decode s.fetchWord = .ok i) (hok : ¬ (s.sp.val = 16 ∧ ∃ nnn, i = .call nnn))
      (herr : t.err = .none) (hwrong : t.wentWrong = s.wentWrong)

theorem reports_of_step {s t : State} (h : step s = .next t) : Reports s t := by
  obtain ⟨u, hu, rfl⟩ := executes_of_step h
  cases hu with
  | unknown why hdec hraise => exact .unknown why hdec (by rw [hraise]; rfl) (by rw [hraise]; rfl)
  | instr i hdec hexec =>
    by_cases hover : s.sp.val = 16 ∧ ∃ nnn, i = .call nnn
    · obtain ⟨hfull, nnn, rfl⟩ := hover
      obtain rfl := next_unique hexec (exec_call_full s.beginCycle nnn hfull)
      exact .overflow nnn hdec hfull rfl rfl
    · obtain ⟨herr, hwrong⟩ := exec_keeps_err hexec hover
      exact .nothing i hdec hover herr hwrong

/-- Settles O44: the three kinds of cycle report three different things. -/
theorem errReportsExactlyTheTwoErrors : Obligations.ErrReportsExactlyTheTwoErrors := by
  intro s t h
  cases reports_of_step h with
  | unknown why hdec herr _ => simp [herr, hdec, eq_comm]
  | overflow nnn hdec hfull herr _ => simp [herr, hdec, hfull]
  | nothing i hdec hok herr _ => simpa [herr, hdec] using hok

/-! ### Sessions -/

/-- What every host operation and every cycle keeps, every session keeps. -/
theorem runEvents_keeps {P : State → Prop} (hhost : ∀ op s t, applyHostOp op s = .ok t → P s → P t)
    (hcycle : ∀ s t, step s = .next t → P s → P t) {events : List Event} {s t : State}
    (h : runEvents events s = .next t) (hs : P s) : P t := by
  induction events generalizing s with
  | nil => exact Host.Outcome.next.inj h ▸ hs
  | cons event rest ih =>
    cases event with
    | host op =>
      cases hop : applyHostOp op s with
      | ok u =>
        simp only [runEvents, hop] at h
        exact ih h (hhost op s u hop hs)
      | error e =>
        simp only [runEvents, hop] at h
        exact ih h hs
    | cycle =>
      obtain ⟨u, _, hstep⟩ := step_executes s
      simp only [runEvents, hstep] at h
      exact ih h (hcycle s u.tick hstep hs)

/-- Settles O7: a host operation goes on from the next state or, where it is rejected, from the same one, and a cycle
always answers a next state. -/
theorem everySessionRuns : Obligations.EverySessionRuns := by
  intro events
  induction events with
  | nil => exact fun s => ⟨s, rfl⟩
  | cons event rest ih =>
    intro s
    cases event with
    | host op =>
      cases hop : applyHostOp op s with
      | ok u => simpa only [runEvents, hop] using ih u
      | error e => simpa only [runEvents, hop] using ih s
    | cycle =>
      obtain ⟨u, _, hstep⟩ := step_executes s
      simpa only [runEvents, hstep] using ih u.tick

/-! ### The fault bit -/

/-- A LOAD that is not rejected is a RESET with the image stored behind it. -/
theorem hostLoad_ok {image : List Byte} {s t : State} (h : hostLoad image s = .ok t) :
    t = State.storeImage 0x200 image (hostReset s) := by
  unfold hostLoad at h
  split at h
  · cases h
  · exact (Except.ok.inj h).symm

theorem applyHostOp_keeps_wentWrong (op : HostOp) (s t : State) (h : applyHostOp op s = .ok t) :
    t.wentWrong = s.wentWrong := by
  cases op with
  | load image =>
    obtain ⟨m, hm⟩ := State.storeImage_frame image 0x200 (hostReset s)
    rw [hostLoad_ok h, hm]
    rfl
  | reset | keySet k b | supplyRnd b => exact Except.ok.inj h ▸ rfl

theorem step_wentWrong {s t : State} (h : step s = .next t) :
    t.wentWrong = true ↔ s.wentWrong = true ∨ t.err ≠ .none := by
  cases reports_of_step h with
  | unknown _ _ herr hwrong => simp [herr, hwrong]
  | overflow _ _ _ herr hwrong => simp [herr, hwrong]
  | nothing _ _ _ herr hwrong => simp [herr, hwrong]

/-- Settles O45: an error cycle sets the bit, and as no cycle and no host operation clears it, no session does. -/
theorem goneWrongIsNeverCleared : Obligations.GoneWrongIsNeverCleared := by
  refine ⟨fun s t h => step_wentWrong h, applyHostOp_keeps_wentWrong, fun events s t h hs => ?_⟩
  refine runEvents_keeps (P := fun u => u.wentWrong = true) (fun op s t hop hs => ?_) (fun s t hstep hs => ?_) h hs
  · rw [applyHostOp_keeps_wentWrong op s t hop, hs]
  · exact (step_wentWrong hstep).2 (.inl hs)

/-! ### The invariant -/

theorem indexSum_toNat (i : Word) (a : Byte) : (indexSum i a).toNat = (i.toNat + a.toNat) % 0x1000 := by
  simp only [indexSum, BitVec.toNat_ofNat, Config.indexMod]
  omega

theorem glyphAddr_toNat (a : Byte) : (glyphAddr a).toNat = a.toNat * 5 := by
  simp only [glyphAddr, BitVec.toNat_ofNat, Config.fontBase, Config.glyphBytes]
  omega

/-- Every write of I is of a value in 0 to 0xFFF (10_state.md R15). -/
theorem exec_keeps_index_range {i : Instr} {s t : State} (h : exec i s = .next t) (hs : s.i.toNat ≤ 0xFFF) :
    t.i.toNat ≤ 0xFFF := by
  by_cases hi : .i ∈ mayWrite i
  · cases i
    case ldI nnn =>
      obtain rfl := next_unique h (exec_ldI nnn s)
      rw [State.advance_i, State.setI_i, zextAddr_toNat]
      omega
    case ldF x =>
      obtain rfl := next_unique h (exec_ldF x s)
      rw [State.advance_i, State.setI_i, glyphAddr_toNat]
      omega
    case addI x =>
      obtain rfl := next_unique h (exec_addI x s)
      rw [State.advance_i, State.setI_i, indexSum_toNat]
      omega
    all_goals simp [mayWrite] at hi
  · have hkept : t.i = s.i := exec_onlyChanges h .i hi
    rwa [hkept]

theorem State.popSp_mem (s : State) : s.popSp.mem = s.mem := by
  obtain ⟨n, h⟩ := s.popSp_frame
  rw [h, State.setSp_mem]

theorem State.drawRows_mem (x0 y0 : Byte) (n : Nat) (s : State) : (State.drawRows x0 y0 n s).mem = s.mem := by
  obtain ⟨v, fb, h⟩ := State.drawRows_frame x0 y0 n s
  rw [h]

theorem State.loadRun_mem (n : Nat) (s : State) : (State.loadRun n s).mem = s.mem := by
  obtain ⟨v, h⟩ := State.loadRun_frame n s
  rw [h]

/-- Every store of an instruction is a chain of MemWrites, and the others leave the list of cells as it is. -/
theorem exec_keeps_memory_wf {i : Instr} {s t : State} (h : exec i s = .next t) (hs : Memory.wf s.mem = true) :
    Memory.wf t.mem = true := by
  cases i
  case ldB x =>
    obtain rfl := next_unique h (exec_ldB x s)
    exact State.memWrite_keeps_wf _ _ _ (State.memWrite_keeps_wf _ _ _ (State.memWrite_keeps_wf _ _ _ hs))
  case stRegs x =>
    obtain rfl := next_unique h (exec_stRegs x s)
    exact State.storeRun_keeps_wf _ s hs
  case ldRegs x =>
    obtain rfl := next_unique h (exec_ldRegs x s)
    rwa [State.advance_mem, State.loadRun_mem]
  case drw x y n =>
    obtain rfl := next_unique h (exec_drw x y s n)
    rwa [State.advance_mem, State.drawRows_mem]
  case ret =>
    obtain rfl := next_unique h (exec_ret s)
    rwa [State.setPc_mem, State.popSp_mem]
  case call nnn =>
    by_cases hfull : s.sp.val = 16
    · obtain rfl := next_unique h (exec_call_full s nnn hfull)
      exact hs
    · obtain rfl := next_unique h (exec_call_room s nnn hfull)
      exact hs
  case ldVxK x =>
    cases hkey : s.firstPressed with
    | some k =>
      obtain rfl := next_unique h (exec_ldVxK_some x s hkey)
      exact hs
    | none =>
      obtain rfl := next_unique h (exec_ldVxK_none x s hkey)
      exact hs
  all_goals
    obtain rfl := Host.Outcome.next.inj h
    exact hs

theorem exec_keeps_invariant {i : Instr} {s t : State} (h : exec i s = .next t) (hs : MachineInv s) : MachineInv t := by
  obtain ⟨hwf, hrange⟩ := hs
  exact ⟨exec_keeps_memory_wf h hwf, exec_keeps_index_range h hrange⟩

/-- The fetch, the raise and the tick touch neither MEM nor I. -/
theorem step_keeps_invariant {s t : State} (h : step s = .next t) (hs : MachineInv s) : MachineInv t := by
  obtain ⟨u, hu, rfl⟩ := executes_of_step h
  show MachineInv u
  cases hu with
  | instr i _ hexec => exact exec_keeps_invariant (s := s.beginCycle) hexec hs
  | unknown _ _ hraise => exact hraise ▸ hs

theorem machineInv_hostReset (s : State) : MachineInv (hostReset s) := ⟨rfl, Nat.zero_le _⟩

theorem applyHostOp_keeps_invariant {op : HostOp} {s t : State} (h : applyHostOp op s = .ok t) (hs : MachineInv s) :
    MachineInv t := by
  cases op with
  | reset => exact Except.ok.inj h ▸ machineInv_hostReset s
  | load image =>
    rw [hostLoad_ok h]
    obtain ⟨hreset, hrange⟩ := machineInv_hostReset s
    have hwf := State.storeImage_keeps_wf image 0x200 (hostReset s) hreset
    obtain ⟨m, hm⟩ := State.storeImage_frame image 0x200 (hostReset s)
    rw [hm] at hwf ⊢
    exact ⟨hwf, hrange⟩
  | keySet k b | supplyRnd b => exact Except.ok.inj h ▸ hs

/-- Settles O2: the reset state is its own RESET, which lists no cell and sets I to 0. -/
theorem resetStateMeetsInvariant : Obligations.ResetStateMeetsInvariant := machineInv_hostReset State.reset

/-- Settles O51: the executor phase keeps MEM canonical and I in range, and nothing else of the cycle writes them. -/
theorem everyCycleKeepsTheInvariant : Obligations.EveryCycleKeepsTheInvariant :=
  fun _ _ hs h => step_keeps_invariant h hs

/-- Settles O52: by induction over the session, from the cycle and the host operations. -/
theorem everySessionKeepsTheInvariant : Obligations.EverySessionKeepsTheInvariant := fun _ _ _ hs h =>
  runEvents_keeps (fun _ _ _ hop => applyHostOp_keeps_invariant hop) (fun _ _ hstep => step_keeps_invariant hstep) h hs

end Sys2Proof.Machine
end

section
/-! RESET, LOAD and KEY_SET (70_reset_and_hazards.md R200 to R203, 10_state.md R35): the reset image read byte by byte,
and what each host operation leaves. -/

namespace Sys2Proof.Machine

/-! ### The reset image -/

/-- Below 80 the reset image is FONT (10_state.md R31). -/
theorem Memory.unlisted_font {a : Nat} (h : a < 80) : some (Memory.unlisted a) = Config.font[a]? := by
  have hlength : a < Config.font.length := by
    rw [font_length.1]
    exact h
  have hrange : Config.fontBase ≤ a ∧ a < Config.fontBase + Config.fontSize := ⟨Nat.zero_le a, by simpa using h⟩
  rw [Memory.unlisted, if_pos hrange, Config.fontBase, Nat.sub_zero, List.getD_eq_getElem?_getD,
    List.getElem?_eq_getElem hlength, Option.getD_some]

/-- From 80 up the reset image is 0 (decision D2). -/
theorem Memory.unlisted_zero {a : Nat} (h : 80 ≤ a) : Memory.unlisted a = 0 := by
  have hrange : ¬ (Config.fontBase ≤ a ∧ a < Config.fontBase + Config.fontSize) := fun ⟨_, hlt⟩ =>
    absurd (by simpa using hlt) (Nat.not_lt.2 h)
  rw [Memory.unlisted, if_neg hrange, State.cleared_eq]

/-- Where no cell is listed, MEM reads as the reset image. -/
theorem State.memRead_of_nothing_listed {s : State} (hmem : s.mem = []) {a : Nat} (ha : a < 4096) :
    s.memRead a = Memory.unlisted a := by
  rw [State.memRead, hmem, memIndex, Nat.mod_eq_of_lt ha, Memory.read]

/-! ### RESET -/

theorem afterReset_hostReset (s : State) : AfterReset (hostReset s) where
  pc := rfl
  opcode := rfl
  i := rfl
  sp := rfl
  dt := rfl
  st := rfl
  font a ha := by rw [State.memRead_of_nothing_listed rfl (by omega), Memory.unlisted_font ha]
  zero a hlow ha := by rw [State.memRead_of_nothing_listed rfl ha, Memory.unlisted_zero hlow]
  v _ := Vector.getElem_replicate _
  stack _ := Vector.getElem_replicate _
  fb x y := State.getCell_clearCells s x y
  key _ := Vector.getElem_replicate _
  err := rfl
  soundEdge := rfl

/-- Settles O1: the reset state is its own RESET. -/
theorem resetReinitialisesEveryPart : Obligations.ResetReinitialisesEveryPart :=
  ⟨afterReset_hostReset State.reset, afterReset_hostReset⟩

/-- The word at 0x200 after RESET is 0. -/
theorem reset_fetchWord : State.reset.fetchWord = 0 := by decide

/-- Settles O3: the cycle reports the word 0; that word is also what OPCODE held, and the timers stay at 0. -/
theorem firstCycleWithoutProgramReportsUnknownOpcode : Obligations.FirstCycleWithoutProgramReportsUnknownOpcode := by
  have hdec : decode State.reset.fetchWord = .error .family0 := by rw [reset_fetchWord]; rfl
  refine ⟨_, step_of_unknown hdec, reset_fetchWord, congrArg Err.unknownOpcode reset_fetchWord, ?_⟩
  intro part hp
  cases part
  case err | wentWrong => simp at hp
  case opcode => exact reset_fetchWord
  case dt | st | soundEdge => rfl
  all_goals simp [AgreeOn, State.beginCycle, State.unknownOpcode]

/-! ### LOAD and KEY_SET -/

theorem State.storeImage_onlyChanges (image : List Byte) (base : Nat) (s : State) :
    OnlyChanges [.mem] s (State.storeImage base image s) := by
  induction image generalizing base s with
  | nil => exact OnlyChanges.refl _ s
  | cons b rest ih => exact (s.memWrite_onlyChanges base b).trans (ih (base + 1) _)

theorem hostLoad_of_fits {image : List Byte} (s : State) (h : image.length ≤ 3584) :
    hostLoad image s = .ok (State.storeImage 0x200 image (hostReset s)) :=
  if_neg (Nat.not_lt.2 h)

theorem hostLoad_of_too_long {image : List Byte} (s : State) (h : image.length > 3584) :
    hostLoad image s = .error .loadSize :=
  if_pos h

/-- Settles O4: behind the RESET come the stores of the image, which fits below 4096. -/
theorem loadPlacesImageAfterReset : Obligations.LoadPlacesImageAfterReset := by
  intro image s hlen
  obtain ⟨hinside, houtside⟩ := State.storeImage_memRead image 0x200 (hostReset s) (by omega)
  exact ⟨_, hostLoad_of_fits s hlen, hinside, houtside, State.storeImage_onlyChanges image 0x200 _⟩

/-- Settles O5: the size is checked before anything changes, and a session goes on from the same state. -/
theorem oversizedLoadChangesNothing : Obligations.OversizedLoadChangesNothing := by
  intro image s rest hlen
  have hload := hostLoad_of_too_long s hlen
  exact ⟨hload, by simp only [runEvents, applyHostOp, hload]⟩

theorem State.setKey_onlyChanges (s : State) (k : Key) (b : Bool) : OnlyChanges [.key] s (s.setKey k b) := by
  intro part hp
  cases part
  case key => simp at hp
  all_goals simp [AgreeOn]

/-- Settles O6: KEY_SET is one write of the latch. -/
theorem keySetWritesOneSlot : Obligations.KeySetWritesOneSlot := by
  intro s k b
  refine ⟨_, rfl, ?_, fun j hj => ?_, s.setKey_onlyChanges k b⟩
  · rw [State.pressed_setKey, if_pos rfl]
  · rw [State.pressed_setKey, if_neg hj]

end Sys2Proof.Machine
end

section
/-! 2NNN and its round trip with 00EE (42_flow.md R101, R103). -/

namespace Sys2Proof.Machine

/-- A part that reads as before need not be listed. -/
theorem OnlyChanges.restored {part : Item} {parts : List Item} {s t : State} (h : OnlyChanges (part :: parts) s t)
    (hpart : AgreeOn part s t) : OnlyChanges parts s t := by
  intro other hother
  by_cases heq : other = part
  · exact heq ▸ hpart
  · exact h other fun hmem => (List.mem_cons.1 hmem).elim heq hother

/-- Settles O22: the push writes slot SP and counts SP up, and the jump writes PC. -/
theorem callSavesItsOwnAddress : Obligations.CallSavesItsOwnAddress := by
  refine ⟨call_encodes, fun s nnn hroom => ⟨_, exec_call_room s nnn (Nat.ne_of_lt hroom), zextAddr_toNat nnn, ?_⟩⟩
  obtain ⟨hsp, hstack⟩ := s.push_spec s.pc hroom
  have hframe : OnlyChanges [.stack, .sp, .pc] s ((s.push s.pc).setPc (zextAddr nnn)) :=
    (s.push_onlyChanges _).append (State.setPc_onlyChanges _ _)
  exact ⟨hsp, fun k hk => (hstack k).trans (if_pos hk), fun k hk => (hstack k).trans (if_neg hk),
    hframe.mono (by simp)⟩

/-- Settles O23: the instruction is the raise alone, and the tick follows it. -/
theorem callOnAFullStackOverflows : Obligations.CallOnAFullStackOverflows := by
  intro s nnn hfull
  exact ⟨⟨_, exec_call_full s nnn hfull, rfl, rfl, s.raise_onlyChanges _⟩, fun hdec =>
    ⟨_, step_of_exec hdec (exec_call_full s.beginCycle nnn hfull), rfl, rfl,
      State.tick_dt_toNat _, State.tick_st_toNat _⟩⟩

/-- Settles O24: the return takes SP down to the slot that the call wrote, and goes behind the address there. -/
theorem callThenRetReturnsBehindTheCall : Obligations.CallThenRetReturnsBehindTheCall := by
  intro s nnn hroom
  obtain ⟨t, hcall, -, htsp, hsaved, hothers, htframe⟩ := callSavesItsOwnAddress.2 s nnn hroom
  obtain ⟨u, hret, husp, hupc, huframe⟩ := retReturnsToTheSavedAddressPlusTwo.2 t
  have hslot : s.spSlot.val = s.sp.val := s.spSlot_val hroom
  have hsp : u.sp = s.sp := Fin.ext (by omega)
  have hkept : AgreeOn .stack t u := huframe.keeps .stack
  refine ⟨t, u, hcall, hret, ?_, fun k hk => (hkept k).trans (hothers k hk), ?_⟩
  · rw [hupc s.spSlot (by omega), hsaved s.spSlot hslot]
  · have hframe : OnlyChanges [.sp, .pc, .stack] s u :=
      (htframe.mono (by simp)).trans (huframe.mono (by simp))
    exact hframe.restored hsp

end Sys2Proof.Machine
end

section
/-! 8XY4 to 8XYE and CXNN (44_alu.md R120, R127 to R132): the flag written first and the value behind it, read from the
registers as the flag left them (decision D9). -/

namespace Sys2Proof.Machine

/-! ### The flag and then the value -/

theorem State.flagThenValue_getV (s : State) (flag : Byte) (x : Reg) (value : State → Byte) (r : Reg) :
    (s.flagThenValue flag x value).getV r =
      if r = x then value (s.setV Reg.F flag) else if r = Reg.F then flag else s.getV r := by
  rw [State.flagThenValue, State.advance_getV, State.getV_setV, State.getV_setV]

theorem State.flagThenValue_onlyWritesV (s : State) (flag : Byte) (x : Reg) (value : State → Byte) :
    OnlyWritesV [x, Reg.F] s (s.flagThenValue flag x value) := by
  intro r hr
  obtain ⟨hx, hF⟩ : r ≠ x ∧ r ≠ Reg.F := by simpa using hr
  rw [State.flagThenValue_getV, if_neg hx, if_neg hF]

/-- An outcome that writes a flag and then a value: V[X] is the value over the registers that hold the flag, and VF is
the flag where X is another register. -/
theorem writes_of_flagThenValue {flag : Byte} {x : Reg} {value : State → Byte} {s : State}
    {out : Host.Outcome State Fault Refusal} (hout : out = .next (s.flagThenValue flag x value)) :
    ∃ t, out = .next t ∧ t.getV x = value (s.setV Reg.F flag) ∧ (x ≠ Reg.F → t.getV Reg.F = flag) ∧
      t.pc = s.pc + 2 ∧ OnlyWritesV [x, Reg.F] s t ∧ OnlyChanges [.v, .pc] s t := by
  refine ⟨_, hout, ?_, fun hx => ?_, rfl, s.flagThenValue_onlyWritesV flag x value,
    s.flagThenValue_onlyChanges flag x value⟩
  · rw [State.flagThenValue_getV, if_pos rfl]
  · rw [State.flagThenValue_getV, if_neg hx.symm, if_pos rfl]

/-! ### The flags as numbers -/

theorem flagByte_cases (p : Prop) [Decidable p] : flagByte (decide p) = 1 ∧ p ∨ flagByte (decide p) = 0 ∧ ¬ p := by
  by_cases hp : p
  · exact .inl ⟨by rw [decide_eq_true hp]; rfl, hp⟩
  · exact .inr ⟨by rw [decide_eq_false hp]; rfl, hp⟩

theorem carryFlag_cases (a b : Byte) :
    carryFlag a b = 1 ∧ a.toNat + b.toNat > 255 ∨ carryFlag a b = 0 ∧ a.toNat + b.toNat ≤ 255 :=
  (flagByte_cases (a.toNat + b.toNat > 255)).imp_right fun ⟨hflag, hle⟩ => ⟨hflag, Nat.not_lt.1 hle⟩

theorem noBorrowFlag_cases (a b : Byte) :
    noBorrowFlag a b = 1 ∧ a.toNat ≥ b.toNat ∨ noBorrowFlag a b = 0 ∧ a.toNat < b.toNat :=
  (flagByte_cases (a.toNat ≥ b.toNat)).imp_right fun ⟨hflag, hlt⟩ => ⟨hflag, Nat.not_le.1 hlt⟩

theorem lowBitFlag_toNat (a : Byte) : (lowBitFlag a).toNat = a.toNat % 2 := by
  simp [lowBitFlag, BitVec.toNat_and, Nat.and_one_is_mod]

theorem highBitFlag_toNat (a : Byte) : (highBitFlag a).toNat = a.toNat / 128 := by
  have hbit : (highBitFlag a).toNat = a.toNat / 128 % 2 := by
    simp [highBitFlag, BitVec.toNat_and, Nat.and_one_is_mod, Nat.shiftRight_eq_div_pow]
  omega

/-! ### The values as numbers -/

/-- A difference of bytes is the difference of their values mod 256. -/
theorem toNat_sub_mod (a b : Byte) : ((a - b).toNat : Int) = ((a.toNat : Int) - b.toNat) % 256 := by
  rw [BitVec.toNat_sub]
  omega

theorem toNat_shiftRight_one (a : Byte) : (a >>> 1).toNat = a.toNat / 2 := by
  rw [BitVec.toNat_ushiftRight, Nat.shiftRight_eq_div_pow, Nat.pow_one]

theorem toNat_shiftLeft_one (a : Byte) : (a <<< 1).toNat = 2 * a.toNat % 256 := by
  rw [BitVec.toNat_shiftLeft, Nat.shiftLeft_eq, Nat.pow_one, Nat.mul_comm]

/-! ### The instructions -/

/-- Settles O29: each of the three is one flag of the old operands and one sum or difference of what the registers hold
once VF is that flag. -/
theorem addAndSubtractWriteTheFlagThenTheValue : Obligations.AddAndSubtractWriteTheFlagThenTheValue := by
  intro s x y
  refine ⟨?addReg, ?sub, ?subn⟩
  case addReg =>
    obtain ⟨t, hexec, hvalue, hrest⟩ := writes_of_flagThenValue (exec_addReg x y s)
    refine ⟨t, hexec, _, _, _, carryFlag_cases (s.getV x) (s.getV y), rfl, rfl, ?_, hrest⟩
    rw [hvalue, BitVec.toNat_add, State.getV_setV, State.getV_setV]
  case sub =>
    obtain ⟨t, hexec, hvalue, hrest⟩ := writes_of_flagThenValue (exec_sub x y s)
    refine ⟨t, hexec, _, _, _, noBorrowFlag_cases (s.getV x) (s.getV y), rfl, rfl, ?_, hrest⟩
    rw [hvalue, toNat_sub_mod, State.getV_setV, State.getV_setV]
  case subn =>
    obtain ⟨t, hexec, hvalue, hrest⟩ := writes_of_flagThenValue (exec_subn x y s)
    refine ⟨t, hexec, _, _, _, noBorrowFlag_cases (s.getV y) (s.getV x), rfl, rfl, ?_, hrest⟩
    rw [hvalue, toNat_sub_mod, State.getV_setV, State.getV_setV]

/-- Settles O30: where X is F the shift sees the flag in place of the old V[X]. -/
theorem shiftsWriteTheFlagThenTheValue : Obligations.ShiftsWriteTheFlagThenTheValue := by
  intro s x y
  refine ⟨?shr, ?shl⟩
  case shr =>
    obtain ⟨t, hexec, hvalue, hflag, hrest⟩ := writes_of_flagThenValue (exec_shr x y s)
    refine ⟨t, hexec, fun hx => ⟨?_, ?_⟩, fun hx => ?_, hrest⟩
    · rw [hvalue, State.getV_setV, if_neg hx, toNat_shiftRight_one]
    · rw [hflag hx, lowBitFlag_toNat]
    · subst hx
      apply BitVec.eq_of_toNat_eq
      rw [hvalue, State.getV_setV_same, toNat_shiftRight_one, lowBitFlag_toNat]
      exact Nat.div_eq_of_lt (Nat.mod_lt _ (by decide))
  case shl =>
    obtain ⟨t, hexec, hvalue, hflag, hrest⟩ := writes_of_flagThenValue (exec_shl x y s)
    refine ⟨t, hexec, fun hx => ⟨?_, ?_⟩, fun hx => ?_, hrest⟩
    · rw [hvalue, State.getV_setV, if_neg hx, toNat_shiftLeft_one]
    · rw [hflag hx, highBitFlag_toNat]
    · subst hx
      have hbyte := (s.getV Reg.F).isLt
      rw [hvalue, State.getV_setV_same, toNat_shiftLeft_one, highBitFlag_toNat]
      omega

/-- No bit outside the mask survives it. -/
theorem and_and_not_self (a b : Byte) : a &&& b &&& ~~~b = 0 := by
  rw [BitVec.and_assoc, BitVec.and_not_self]
  exact BitVec.and_zero

/-- Settles O31: the draw replaces the input behind the write of V[X]. -/
theorem rndMasksTheRandomByte : Obligations.RndMasksTheRandomByte := by
  refine ⟨rnd_encodes, fun s x nn => ⟨_, exec_rnd x s nn, s.getV_setV_same x _, ?_, rfl,
    s.setV_advance_onlyWritesV x (s.rnd &&& nn), ?_⟩⟩
  · rw [State.advance_getV, State.refreshRnd_getV, State.getV_setV_same, and_and_not_self]
  · have hframe : OnlyChanges [.v, .rnd, .rndDraws, .pc] s (s.setV x (s.rnd &&& nn)).refreshRnd.advance :=
      ((s.setV_onlyChanges x _).append (State.refreshRnd_onlyChanges _)).advance
    exact hframe.mono (by simp)

end Sys2Proof.Machine
end

section
/-! FX1E, FX29, FX33, FX55 and FX65 (45_index_memory.md R141 to R147). -/

namespace Sys2Proof.Machine

theorem indexOverflowFlag_cases (a : Byte) (i : Word) :
    indexOverflowFlag a i = 1 ∧ a.toNat + i.toNat > 0xFFF ∨ indexOverflowFlag a i = 0 ∧ a.toNat + i.toNat ≤ 0xFFF :=
  (flagByte_cases (a.toNat + i.toNat > 0xFFF)).imp_right fun ⟨hflag, hle⟩ => ⟨hflag, Nat.not_lt.1 hle⟩

/-- Settles O33: the flag is written first, and I then adds V[X] as it reads behind it. -/
theorem addToIndexWritesTheFlagThenTheIndex : Obligations.AddToIndexWritesTheFlagThenTheIndex := by
  intro s x
  refine ⟨_, exec_addI x s, _, indexOverflowFlag_cases (s.getV x) s.i, s.getV_setV_same Reg.F _, ?_, rfl,
    s.setV_advance_onlyWritesV Reg.F _, ?_⟩
  · rw [State.advance_i, State.setI_i, indexSum_toNat, State.getV_setV]
  · exact ((s.setV_onlyChanges Reg.F _).append (State.setI_onlyChanges _ _)).advance

/-- Settles O34: V[X] * 5 fits in I, and for a digit the glyph lies in the font of the reset image. -/
theorem loadGlyphAddress : Obligations.LoadGlyphAddress := by
  intro s x
  refine ⟨_, exec_ldF x s, glyphAddr_toNat _, rfl, s.setI_advance_onlyChanges _, fun hmem hdigit row hrow => ?_⟩
  rw [State.advance_i, State.setI_i, glyphAddr_toNat, State.advance_memRead, State.setI_memRead,
    State.memRead_of_nothing_listed hmem (by omega), Memory.unlisted_font (by omega), Nat.mul_comm]

/-! ### Stores -/

theorem State.memRead_memWrite_same (s : State) (a : Nat) (b : Byte) : (s.memWrite a b).memRead a = b := by
  rw [State.memRead_memWrite, if_pos rfl]

theorem State.memRead_memWrite_ne (s : State) {a c : Nat} (b : Byte) (h : memIndex c ≠ memIndex a) :
    (s.memWrite a b).memRead c = s.memRead c :=
  (s.memRead_memWrite a c b).trans (if_neg h)

/-- Two of the addresses I, I + 1, ... that lie less than 4096 apart are two cells. -/
theorem memIndex_indexed_ne (s : State) {j k : Nat} (h : j ≠ k) (hj : j < 4096) (hk : k < 4096) :
    memIndex (s.indexed j) ≠ memIndex (s.indexed k) := by
  simp only [memIndex, State.indexed, Config.memSize]
  omega

theorem hundreds_toNat (a : Byte) : (hundreds a).toNat = a.toNat / 100 := by
  simp only [hundreds, BitVec.toNat_ofNat]
  omega

theorem tens_toNat (a : Byte) : (tens a).toNat = a.toNat / 10 % 10 := by
  simp only [tens, BitVec.toNat_ofNat]
  omega

theorem ones_toNat (a : Byte) : (ones a).toNat = a.toNat % 10 := by
  simp only [ones, BitVec.toNat_ofNat]
  omega

/-- Settles O35: three stores to three different cells. -/
theorem storeDecimalDigits : Obligations.StoreDecimalDigits := by
  intro s x
  have h01 := memIndex_indexed_ne s (j := 0) (k := 1) (by decide) (by decide) (by decide)
  have h02 := memIndex_indexed_ne s (j := 0) (k := 2) (by decide) (by decide) (by decide)
  have h12 := memIndex_indexed_ne s (j := 1) (k := 2) (by decide) (by decide) (by decide)
  refine ⟨_, exec_ldB x s, ?_, ?_, ?_, fun a ha => ?_, rfl, ?_⟩
  · rw [State.advance_memRead, State.memRead_memWrite_ne _ _ h02, State.memRead_memWrite_ne _ _ h01,
      State.memRead_memWrite_same, hundreds_toNat]
  · rw [State.advance_memRead, State.memRead_memWrite_ne _ _ h12, State.memRead_memWrite_same, tens_toNat]
  · rw [State.advance_memRead, State.memRead_memWrite_same, ones_toNat]
  · rw [State.advance_memRead, State.memRead_memWrite_ne _ _ (ha 2 (by decide)),
      State.memRead_memWrite_ne _ _ (ha 1 (by decide)), State.memRead_memWrite_ne _ _ (ha 0 (by decide))]
  · exact (s.storeDigits_onlyChanges _ _ _).advance

/-! ### Runs of registers -/

theorem regOf_reg (r : Reg) : regOf r.val = r := Fin.ext (regOf_val r.val r.isLt)

/-- Settles O36: by what a run of stores leaves at the addresses of the run and outside it. -/
theorem storeRegisters : Obligations.StoreRegisters := by
  intro s x
  obtain ⟨hrun, hrest⟩ := State.storeRun_memRead (x.val + 1) x.isLt s
  refine ⟨_, exec_stRegs x s, fun r hr => ?_, fun a ha => hrest a fun j hj => ha j (Nat.le_of_lt_succ hj), ?_,
    (s.storeRun_onlyChanges _).advance⟩
  · exact (hrun r.val (Nat.lt_succ_of_le hr)).trans (congrArg s.getV (regOf_reg r))
  · rw [State.advance_pc, (s.storeRun_onlyChanges _).keeps .pc]

/-- Settles O37: by what a run of loads leaves in the registers up to X and above. -/
theorem loadRegisters : Obligations.LoadRegisters := by
  intro s x
  have hrun := State.loadRun_getV (x.val + 1) x.isLt s
  refine ⟨_, exec_ldRegs x s, fun r hr => ?_, fun r hr => ?_, ?_, (s.loadRun_onlyChanges _).advance⟩
  · exact (hrun r).trans (if_pos (Nat.lt_succ_of_le hr))
  · exact (hrun r).trans (if_neg fun hle => Nat.not_lt.2 (Nat.le_of_lt_succ hle) hr)
  · rw [State.advance_pc, (s.loadRun_onlyChanges _).keeps .pc]

end Sys2Proof.Machine
end

section
/-! EX9E, EXA1 and FX0A with a key pressed (46_keypad.md R150 to R153). -/

namespace Sys2Proof.Machine

/-- Settles O38: the slot is the one of the low nibble, and both are a skip on its level. -/
theorem skipsOnAKey : Obligations.SkipsOnAKey := by
  intro s x k hk
  have hslot : keySlot (s.getV x) = k := Fin.ext ((keySlot_val _).trans hk.symm)
  have hskp := exec_skp x s
  have hsknp := exec_sknp x s
  rw [hslot] at hskp hsknp
  refine ⟨⟨_, hskp, fun hdown => ?_, fun hup => ?_, s.skipIf_onlyChanges _⟩,
    ⟨_, hsknp, fun hup => ?_, fun hdown => ?_, s.skipIf_onlyChanges _⟩⟩
  · rw [hdown]; rfl
  · rw [hup]; rfl
  · rw [hup]; rfl
  · rw [hdown]; rfl

/-- The scan finds the key below which none is pressed. -/
theorem State.firstPressed_eq_of_lowest (s : State) (k : Key) (hk : s.pressed k = true)
    (hbelow : ∀ j, j < k → s.pressed j = false) : s.firstPressed = some k := by
  cases hscan : s.firstPressed with
  | none => exact absurd (hk.symm.trans (s.firstPressed_none.1 hscan k)) (by decide)
  | some j =>
    obtain ⟨hj, hlowest⟩ := s.firstPressed_some j hscan
    rcases Nat.lt_trichotomy j.val k.val with hlt | heq | hgt
    · exact absurd (hj.symm.trans (hbelow j hlt)) (by decide)
    · rw [Fin.ext heq]
    · exact absurd (hk.symm.trans (hlowest k hgt)) (by decide)

/-- Settles O39: the scan answers the lowest pressed key, whose index is one write of V[X]. -/
theorem keyWaitTakesTheLowestPressedKey : Obligations.KeyWaitTakesTheLowestPressedKey := by
  intro s x k hk hbelow
  obtain ⟨t, hexec, hvalue, hrest⟩ :=
    writes_of_setV (exec_ldVxK_some x s (s.firstPressed_eq_of_lowest k hk hbelow))
  refine ⟨t, hexec, ?_, hrest⟩
  rw [hvalue, BitVec.toNat_ofNat]
  omega

end Sys2Proof.Machine
end

section
/-! DXYN (41_display.md R92, R93): the drawing that its rows make, with VF cleared before it, and the same drawing
twice. -/

namespace Sys2Proof.Machine

/-- What DXYN leaves: its rows are one drawing of the covered cells, over registers whose VF is 0. -/
theorem drw_draws (x y : Reg) {n : Nat} (hwf : Instr.wellFormed (.drw x y n) = true) (s : State) :
    Draws (s.spriteCovers (s.getV x) (s.getV y) n) (s.setV Reg.F 0)
      (State.drawRows (s.getV x) (s.getV y) n (s.setV Reg.F 0)).advance := by
  have hrows : n ≤ 32 := by
    have hcount : n < 16 := of_decide_eq_true hwf
    omega
  obtain ⟨hinv, hkept, hhit, hmiss, hothers⟩ := drawRows_draws (s.getV x) (s.getV y) n hrows (s.setV Reg.F 0)
  exact ⟨hinv, hkept, hhit, hmiss, hothers⟩

theorem drw_onlyChanges (x y : Reg) (n : Nat) (s : State) :
    OnlyChanges [.v, .fb, .pc] s (State.drawRows (s.getV x) (s.getV y) n (s.setV Reg.F 0)).advance :=
  (((s.setV_onlyChanges Reg.F 0).mono (by simp)).trans (State.drawRows_onlyChanges _ _ n _)).advance

/-- Settles O18: FB and VF by the drawing over the state with VF cleared, whose cells are the old ones. -/
theorem drwInvertsTheCoveredCells : Obligations.DrwInvertsTheCoveredCells := by
  intro s x y n hwf
  obtain ⟨hinv, hkept, hhit, hmiss, hothers⟩ := drw_draws x y hwf s
  refine ⟨_, exec_drw x y s n, hinv, hkept, hhit, fun hnone => ?_, fun r hr => ?_, ?_,
    (drw_onlyChanges x y n s).mono (by simp)⟩
  · exact (hmiss hnone).trans (s.getV_setV_same Reg.F 0)
  · have hF : r ≠ Reg.F := by simpa using hr
    rw [hothers r hF, State.getV_setV, if_neg hF]
  · rw [State.advance_pc, (State.drawRows_onlyChanges _ _ n _).keeps .pc, State.setV_pc]

/-- The covered cells are those of the sprite bytes at I, so equal bytes at the same I cover the same cells. -/
theorem spriteCovers_congr {s u : State} (hi : u.i = s.i) (hmem : AgreeOn .mem s u) (x0 y0 : Byte) (n : Nat) :
    u.spriteCovers x0 y0 n = s.spriteCovers x0 y0 n := by
  have hbyte (row : Nat) : u.memRead (u.indexed row) = s.memRead (s.indexed row) := by
    rw [State.indexed, hi]
    exact hmem _
  funext p q
  simp only [State.spriteCovers, hbyte]

/-- Settles O19: the second draw covers the same cells, finds each of them inverted and inverts it back. -/
theorem secondDrawRestoresTheFrameBuffer : Obligations.SecondDrawRestoresTheFrameBuffer := by
  intro s t u x y n hwf hfirst hx hy hi hmem hfb
  obtain ⟨t', ht', hinv, hkept, -⟩ := drwInvertsTheCoveredCells s x y n hwf
  obtain rfl := next_unique hfirst ht'
  obtain ⟨w, hw, hinv', hkept', hhit, hmiss, -⟩ := drwInvertsTheCoveredCells u x y n hwf
  rw [hx, hy, spriteCovers_congr hi hmem] at hinv' hkept' hhit hmiss
  have hcollides : (∃ p q, s.spriteCovers (s.getV x) (s.getV y) n p q ∧ u.getCell p q = true) ↔
      ∃ p q, s.spriteCovers (s.getV x) (s.getV y) n p q ∧ s.getCell p q = false := by
    refine exists_congr fun p => exists_congr fun q => and_congr_right fun hcovers => ?_
    rw [hfb p q, hinv p q hcovers, Bool.not_eq_true']
  refine ⟨w, hw, fun p q => ?_, fun hcell => hhit (hcollides.2 hcell), fun hnone => hmiss fun hcell =>
    hnone (hcollides.1 hcell)⟩
  by_cases hcovers : s.spriteCovers (s.getV x) (s.getV y) n p q
  · rw [hinv' p q hcovers, hfb p q, hinv p q hcovers, Bool.not_not]
  · rw [hkept' p q hcovers, hfb p q, hkept p q hcovers]

end Sys2Proof.Machine
end

section
/-! Which registers an instruction writes (10_state.md R11, R12, R14). -/

namespace Sys2Proof.Machine

theorem OnlyWritesV.trans {regs : List Reg} {s t u : State} (h1 : OnlyWritesV regs s t) (h2 : OnlyWritesV regs t u) :
    OnlyWritesV regs s u := fun r hr => (h2 r hr).trans (h1 r hr)

/-- A pixel writes VF alone, by its collision. -/
theorem State.drawPixel_onlyWritesV (s : State) (x : Column) (y : Row) : OnlyWritesV [Reg.F] s (s.drawPixel x y) := by
  intro r hr
  have hF : r ≠ Reg.F := by simpa using hr
  exact ((s.drawPixel_spec x y).2 r).trans (if_neg fun h => hF h.1)

theorem State.drawCols_onlyWritesV (b x0 : Byte) (y : Row) (n : Nat) (s : State) :
    OnlyWritesV [Reg.F] s (State.drawCols b x0 y n s) := by
  induction n with
  | zero => exact fun _ _ => rfl
  | succ n ih =>
    simp only [State.drawCols]
    split
    · exact ih.trans (State.drawPixel_onlyWritesV _ _ _)
    · exact ih

/-- So does a sprite of any number of rows, also of one that no word encodes. -/
theorem State.drawRows_onlyWritesV (x0 y0 : Byte) (n : Nat) (s : State) :
    OnlyWritesV [Reg.F] s (State.drawRows x0 y0 n s) := by
  induction n with
  | zero => exact fun _ _ => rfl
  | succ n ih => exact ih.trans (State.drawCols_onlyWritesV _ _ _ _ _)

/-- A register outside the list that an outcome is known to write. -/
theorem getV_of_onlyWritesV {o : Host.Outcome State Fault Refusal} {regs : List Reg} {s t u : State} {r : Reg}
    (ht : o = .next t) (hu : o = .next u) (hwrites : OnlyWritesV regs s u) (hr : r ∉ regs) : t.getV r = s.getV r :=
  next_unique hu ht ▸ hwrites r hr

/-- Settles O43: an instruction whose frame leaves V out keeps every register; each of the others writes V[X], a flag,
both of them in turn, or the run up to V[X]. -/
theorem registersChangeOnlyAsDestinationOrFlag : Obligations.RegistersChangeOnlyAsDestinationOrFlag := by
  intro i s t r h hdest hflag
  by_cases hv : .v ∈ mayWrite i
  · have hnotF (hi : writesFlag i = true) : r ≠ Reg.F := fun hr => absurd (hi.symm.trans (hflag hr)) (by decide)
    cases i
    case drw x y n =>
      exact getV_of_onlyWritesV h (exec_drw x y s n)
        ((s.setV_advance_onlyWritesV Reg.F 0).trans (State.drawRows_onlyWritesV _ _ n _)) (by simpa using hnotF rfl)
    case addI x =>
      exact getV_of_onlyWritesV h (exec_addI x s) (s.setV_advance_onlyWritesV Reg.F _) (by simpa using hnotF rfl)
    case ldRegs x =>
      have hr : ¬ r ≤ x := of_decide_eq_false hdest
      obtain rfl := next_unique h (exec_ldRegs x s)
      exact (State.loadRun_getV (x.val + 1) x.isLt s r).trans (if_neg fun hle => hr (Nat.le_of_lt_succ hle))
    case ldVxK x =>
      have hr : r ≠ x := of_decide_eq_false hdest
      cases hkey : s.firstPressed with
      | some k =>
        exact getV_of_onlyWritesV h (exec_ldVxK_some x s hkey) (s.setV_advance_onlyWritesV x _) (by simpa using hr)
      | none => rw [next_unique h (exec_ldVxK_none x s hkey)]
    case rnd x nn =>
      have hr : r ≠ x := of_decide_eq_false hdest
      exact getV_of_onlyWritesV h (exec_rnd x s nn) (s.setV_advance_onlyWritesV x _) (by simpa using hr)
    case ldImm | addImm | ldReg | orReg | andReg | xorReg | ldVxDt =>
      have hr := of_decide_eq_false hdest
      exact getV_of_onlyWritesV h rfl (s.setV_advance_onlyWritesV _ _) (by simpa using hr)
    case addReg | sub | subn | shr | shl =>
      have hr := of_decide_eq_false hdest
      exact getV_of_onlyWritesV h rfl (s.flagThenValue_onlyWritesV _ _ _) (by simpa using ⟨hr, hnotF rfl⟩)
    all_goals simp [mayWrite] at hv
  · exact exec_onlyChanges h .v hv r

end Sys2Proof.Machine
end

section
/-! Cycles that leave the core where it is: a waiting FX0A (46_keypad.md R153), a cycle that reports an error
(60_exceptions.md R173), and a jump to itself (70_reset_and_hazards.md R215). One induction over the number of cycles
serves all three. -/

namespace Sys2Proof.Machine

/-! ### Idle cycles -/

/-- `n` cycles lead from `s` to `t`, count the timers down, and change no other part than the listed ones. -/
structure Idled (parts : List Item) (n : Nat) (s t : State) : Prop where
  dt : t.dt.toNat = s.dt.toNat - n
  st : t.st.toNat = s.st.toNat - n
  frame : OnlyChanges parts s t

theorem Idled.refl (parts : List Item) (s : State) : Idled parts 0 s s := ⟨rfl, rfl, OnlyChanges.refl parts s⟩

theorem Idled.trans {parts : List Item} {m n : Nat} {s t u : State} (h1 : Idled parts m s t) (h2 : Idled parts n t u) :
    Idled parts (m + n) s u where
  dt := by rw [h2.dt, h1.dt, Nat.sub_sub]
  st := by rw [h2.st, h1.st, Nat.sub_sub]
  frame := h1.frame.trans h2.frame

/-- A cycle whose executor phase leaves the timers alone takes 1 off each of them. -/
theorem idled_of_cycle {parts more : List Item} {s u : State} (h : OnlyChanges parts s.beginCycle u)
    (hdt : .dt ∉ parts) (hst : .st ∉ parts)
    (hsub : ∀ part, part ∈ [.opcode, .err] ++ parts ++ [.dt, .st, .soundEdge] → part ∈ more) :
    Idled more 1 s u.tick where
  dt := by rw [u.tick_dt_toNat, show u.dt = s.dt from h .dt hdt]
  st := by rw [u.tick_st_toNat, show u.st = s.st from h .st hst]
  frame := h.cycle.mono hsub

/-- Where MEM and PC stay, the same word is fetched again. -/
theorem Idled.fetchWord {parts : List Item} {n : Nat} {s t : State} (h : Idled parts n s t) (hmem : .mem ∉ parts)
    (hpc : .pc ∉ parts) : t.fetchWord = s.fetchWord :=
  fetchWord_eq_of_agree (h.frame .mem hmem) (h.frame .pc hpc)

section
variable {parts : List Item} {P Q : State → Prop}

/-- A condition under which a cycle idles and which that cycle keeps holds, with idling, over any number of cycles. -/
theorem run_idles (hcycle : ∀ s, P s → ∃ t, step s = .next t ∧ P t ∧ Idled parts 1 s t) (n : Nat) {s : State}
    (hs : P s) : ∃ t, Host.Core.run core n s = .next t ∧ P t ∧ Idled parts n s t := by
  induction n generalizing s with
  | zero => exact ⟨s, rfl, hs, Idled.refl parts s⟩
  | succ n ih =>
    obtain ⟨t, hstep, ht, hfirst⟩ := hcycle s hs
    obtain ⟨u, hrun, hu, hrest⟩ := ih ht
    exact ⟨u, (run_succ_of_step hstep).trans hrun, hu, Nat.add_comm 1 n ▸ hfirst.trans hrest⟩

/-- After at least one such cycle, what every such cycle leaves holds as well. -/
theorem run_succ_idles (hcycle : ∀ s, P s → ∃ t, step s = .next t ∧ P t ∧ Q t ∧ Idled parts 1 s t) (n : Nat) {s : State}
    (hs : P s) : ∃ t, Host.Core.run core (n + 1) s = .next t ∧ P t ∧ Q t ∧ Idled parts (n + 1) s t := by
  obtain ⟨t, hstep, ht, hleft, hfirst⟩ := hcycle s hs
  have hnext (v : State) (hv : P v ∧ Q v) : ∃ w, step v = .next w ∧ (P w ∧ Q w) ∧ Idled parts 1 v w := by
    obtain ⟨w, hstep, hw, hleft, hidled⟩ := hcycle v hv.1
    exact ⟨w, hstep, ⟨hw, hleft⟩, hidled⟩
  obtain ⟨u, hrun, ⟨hu, huleft⟩, hrest⟩ := run_idles hnext n ⟨ht, hleft⟩
  exact ⟨u, (run_succ_of_step hstep).trans hrun, hu, huleft, Nat.add_comm 1 n ▸ hfirst.trans hrest⟩

end

/-! ### A waiting FX0A -/

/-- FX0A stands at PC and no key is pressed. -/
def Waits (x : Reg) (s : State) : Prop := decode s.fetchWord = .ok (.ldVxK x) ∧ ∀ k, s.pressed k = false

theorem waiting_cycle (x : Reg) (s : State) (h : Waits x s) :
    ∃ t, step s = .next t ∧ Waits x t ∧ Idled [.opcode, .err, .dt, .st, .soundEdge] 1 s t := by
  obtain ⟨hdec, hup⟩ := h
  have hexec := exec_ldVxK_none x s.beginCycle (s.beginCycle.firstPressed_none.2 hup)
  have hidled : Idled [.opcode, .err, .dt, .st, .soundEdge] 1 s s.beginCycle.tick :=
    idled_of_cycle (OnlyChanges.refl [] _) (by simp) (by simp) (by simp)
  refine ⟨_, step_of_exec hdec hexec, ⟨?_, hup⟩, hidled⟩
  rw [hidled.fetchWord (by simp) (by simp), hdec]

/-- Settles O40: a waiting cycle leaves its executor phase at once, and the wait goes on. -/
theorem keyWaitHoldsWhileNoKeyIsPressed : Obligations.KeyWaitHoldsWhileNoKeyIsPressed := by
  intro n s x hdec hup
  obtain ⟨t, hrun, ⟨hdec', _⟩, hidled⟩ := run_idles (waiting_cycle x) n ⟨hdec, hup⟩
  exact ⟨t, hrun, hdec', hidled.dt, hidled.frame⟩

/-! ### An error -/

/-- A cycle whose executor phase is the raise of an error. -/
theorem idled_of_raise (s : State) (e : Err) :
    Idled [.opcode, .err, .wentWrong, .dt, .st, .soundEdge] 1 s (s.beginCycle.raise e).tick :=
  idled_of_cycle (State.raise_onlyChanges _ e) (by simp) (by simp) (by simp)

theorem unknown_cycle {w : Word} {why : UnknownWord} (hdec : decode w = .error why) (s : State) (h : s.fetchWord = w) :
    ∃ t, step s = .next t ∧ t.fetchWord = w ∧ (t.err = .unknownOpcode w ∧ t.wentWrong = true) ∧
      Idled [.opcode, .err, .wentWrong, .dt, .st, .soundEdge] 1 s t := by
  subst h
  have hidled := idled_of_raise s (.unknownOpcode s.fetchWord)
  exact ⟨_, step_of_unknown hdec, hidled.fetchWord (by simp) (by simp), ⟨rfl, rfl⟩, hidled⟩

/-- A 2NNN stands at PC and the stack is full. -/
def Overflows (nnn : Addr) (s : State) : Prop := decode s.fetchWord = .ok (.call nnn) ∧ s.sp.val = 16

theorem overflow_cycle (nnn : Addr) (s : State) (h : Overflows nnn s) :
    ∃ t, step s = .next t ∧ Overflows nnn t ∧ (t.err = .stackOverflow ∧ t.wentWrong = true) ∧
      Idled [.opcode, .err, .wentWrong, .dt, .st, .soundEdge] 1 s t := by
  obtain ⟨hdec, hfull⟩ := h
  have hidled := idled_of_raise s .stackOverflow
  refine ⟨_, step_of_exec hdec (exec_call_full s.beginCycle nnn hfull), ⟨?_, hfull⟩, ⟨rfl, rfl⟩, hidled⟩
  rw [hidled.fetchWord (by simp) (by simp), hdec]

/-- Settles O46: an error cycle writes nothing that its own condition reads. -/
theorem errorsRepeatForever : Obligations.ErrorsRepeatForever := by
  intro n s
  refine ⟨fun ⟨why, hdec⟩ => ?_, fun ⟨nnn, hdec⟩ hfull => ?_⟩
  · obtain ⟨t, hrun, _, ⟨herr, hwrong⟩, hidled⟩ := run_succ_idles (unknown_cycle hdec) n rfl
    exact ⟨t, hrun, herr, hwrong, hidled.dt, hidled.frame⟩
  · obtain ⟨t, hrun, _, ⟨herr, hwrong⟩, hidled⟩ := run_succ_idles (overflow_cycle nnn) n ⟨hdec, hfull⟩
    exact ⟨t, hrun, herr, hwrong, hidled.dt, hidled.frame⟩

/-! ### A jump to itself -/

/-- STOPPED in numbers: PC lies in the address space, and the word there is 0x1000 + PC. -/
theorem State.fetchWord_of_stopped {s : State} (h : s.stopped = true) :
    s.pc.toNat ≤ 0xFFE ∧ s.fetchWord.toNat = 0x1000 + s.pc.toNat := by
  simp only [State.stopped, Bool.and_eq_true, decide_eq_true_eq] at h
  obtain ⟨⟨hpc, hhigh⟩, hlow⟩ := h
  refine ⟨hpc, ?_⟩
  rw [s.fetchWord_toNat, hhigh, hlow]
  omega

theorem topNibble_toNat (w : Word) : (topNibble w).toNat = w.toNat / 4096 % 16 := by
  simp [topNibble, BitVec.extractLsb'_toNat, Nat.shiftRight_eq_div_pow]

theorem fieldNNN_toNat (w : Word) : (fieldNNN w).toNat = w.toNat % 4096 := by
  simp [fieldNNN, BitVec.extractLsb'_toNat]

/-- The word at PC of a STOPPED state is the jump to PC. -/
theorem decode_of_stopped {s : State} (h : s.stopped = true) :
    ∃ nnn, decode s.fetchWord = .ok (.jp nnn) ∧ zextAddr nnn = s.pc := by
  obtain ⟨hpc, hword⟩ := State.fetchWord_of_stopped h
  have htop : topNibble s.fetchWord = 0x1 := by
    apply BitVec.eq_of_toNat_eq
    rw [topNibble_toNat, hword]
    show _ = 1
    omega
  refine ⟨_, decode_of_topNibble_one htop, BitVec.eq_of_toNat_eq ?_⟩
  rw [zextAddr_toNat, fieldNNN_toNat, hword]
  omega

/-- STOPPED reads MEM and PC alone. -/
theorem stopped_congr {s t : State} (hmem : AgreeOn .mem s t) (hpc : t.pc = s.pc) : t.stopped = s.stopped := by
  simp only [AgreeOn] at hmem
  simp only [State.stopped, hpc, hmem]

theorem stopped_cycle (w : Word) (s : State) (h : s.stopped = true ∧ s.fetchWord = w) :
    ∃ t, step s = .next t ∧ (t.stopped = true ∧ t.fetchWord = w) ∧ (t.opcode = w ∧ t.err = .none) ∧
      Idled [.opcode, .err, .dt, .st, .soundEdge] 1 s t := by
  obtain ⟨hstopped, hfetch⟩ := h
  obtain ⟨nnn, hdec, htarget⟩ := decode_of_stopped hstopped
  have hexec : exec (.jp nnn) s.beginCycle = .next s.beginCycle := by
    rw [exec_jp, htarget]
    rfl
  have hidled : Idled [.opcode, .err, .dt, .st, .soundEdge] 1 s s.beginCycle.tick :=
    idled_of_cycle (OnlyChanges.refl [] _) (by simp) (by simp) (by simp)
  refine ⟨_, step_of_exec hdec hexec, ⟨?_, ?_⟩, ⟨hfetch, rfl⟩, hidled⟩
  · rw [stopped_congr (hidled.frame.keeps .mem) (hidled.frame.keeps .pc), hstopped]
  · rw [hidled.fetchWord (by simp) (by simp), hfetch]

/-- Settles O47: the jump to PC writes what PC holds, and the cycle leaves MEM and PC, which STOPPED reads. -/
theorem stoppedStaysStopped : Obligations.StoppedStaysStopped := by
  intro n s h
  cases n with
  | zero => exact ⟨s, rfl, h, rfl, rfl, fun hpos => absurd hpos (Nat.lt_irrefl 0), OnlyChanges.refl _ s⟩
  | succ n =>
    obtain ⟨t, hrun, ⟨hstopped, _⟩, hlatched, hidled⟩ := run_succ_idles (stopped_cycle s.fetchWord) n ⟨h, rfl⟩
    exact ⟨t, hrun, hstopped, hidled.dt, hidled.st, fun _ => hlatched, hidled.frame⟩

end Sys2Proof.Machine
end

section
/-! What instructions do not read (10_state.md R19, R22, R33, R34): ST, SOUND_EDGE and the random input may be changed
before an instruction or behind it, with the same outcome, but for the two instructions that touch them. -/

namespace Sys2Proof.Machine

/-- A change of ST, SOUND_EDGE and the random input. -/
structure Overlay where
  st : Byte → Byte
  soundEdge : Bool → Bool
  rnd : Byte → Byte
  rndDraws : Nat → Nat

/-- The state with that change made. -/
def State.overlay (s : State) (c : Overlay) : State :=
  { s with
    st := c.st s.st, soundEdge := c.soundEdge s.soundEdge, rnd := c.rnd s.rnd, rndDraws := c.rndDraws s.rndDraws }

/-! ### The shared operations commute with the change -/

section
variable (s : State) (c : Overlay)

theorem State.overlay_popSp : (s.overlay c).popSp = s.popSp.overlay c := by
  simp only [State.popSp, apply_ite (State.overlay · c)]
  rfl

theorem State.overlay_firstPressed : (s.overlay c).firstPressed = s.firstPressed := by
  have hscan (fuel : Nat) : ∀ k, (s.overlay c).firstPressedFrom k fuel = s.firstPressedFrom k fuel := by
    induction fuel with
    | zero => exact fun _ => rfl
    | succ fuel ih =>
      intro k
      simp only [State.firstPressedFrom, ih]
      rfl
  exact hscan _ 0

theorem State.overlay_storeRun (n : Nat) : State.storeRun n (s.overlay c) = (State.storeRun n s).overlay c := by
  induction n with
  | zero => rfl
  | succ n ih =>
    simp only [State.storeRun, ih]
    rfl

theorem State.overlay_loadRun (n : Nat) : State.loadRun n (s.overlay c) = (State.loadRun n s).overlay c := by
  induction n with
  | zero => rfl
  | succ n ih =>
    simp only [State.loadRun, ih]
    rfl

theorem State.overlay_drawPixel (x : Column) (y : Row) : (s.overlay c).drawPixel x y = (s.drawPixel x y).overlay c := by
  have hcell : (s.overlay c).getCell x y = s.getCell x y := rfl
  simp only [State.drawPixel, hcell]
  split <;> rfl

theorem State.overlay_drawCols (b x0 : Byte) (y : Row) (n : Nat) :
    State.drawCols b x0 y n (s.overlay c) = (State.drawCols b x0 y n s).overlay c := by
  induction n with
  | zero => rfl
  | succ n ih =>
    simp only [State.drawCols, ih, State.overlay_drawPixel]
    split <;> rfl

theorem State.overlay_drawRows (x0 y0 : Byte) (n : Nat) :
    State.drawRows x0 y0 n (s.overlay c) = (State.drawRows x0 y0 n s).overlay c := by
  induction n with
  | zero => rfl
  | succ n ih =>
    simp only [State.drawRows, ih]
    exact State.overlay_drawCols _ c _ _ _ 8

end

/-! ### The instructions -/

/-- An instruction commutes with the change, where CXNN finds the random input and FX18 finds ST as it was. -/
theorem exec_overlay {i : Instr} {s t : State} (c : Overlay) (h : exec i s = .next t)
    (hrnd : (∃ x nn, i = .rnd x nn) → c.rnd = id ∧ c.rndDraws = id) (hst : (∃ x, i = .ldStVx x) → c.st = id) :
    exec i (s.overlay c) = .next (t.overlay c) := by
  cases i
  case rnd x nn =>
    obtain ⟨hbyte, hdraws⟩ := hrnd ⟨x, nn, rfl⟩
    obtain rfl := next_unique h (exec_rnd x s nn)
    rw [exec_rnd]
    simp only [State.overlay, hbyte, hdraws]
    rfl
  case ldStVx x =>
    have hkept := hst ⟨x, rfl⟩
    obtain rfl := next_unique h (exec_ldStVx x s)
    rw [exec_ldStVx]
    simp only [State.overlay, hkept]
    rfl
  case ret =>
    obtain rfl := next_unique h (exec_ret s)
    rw [exec_ret, State.overlay_popSp]
    rfl
  case call nnn =>
    by_cases hfull : s.sp.val = 16
    · obtain rfl := next_unique h (exec_call_full s nnn hfull)
      exact exec_call_full (s.overlay c) nnn hfull
    · obtain rfl := next_unique h (exec_call_room s nnn hfull)
      exact exec_call_room (s.overlay c) nnn hfull
  case ldVxK x =>
    have hscan := State.overlay_firstPressed s c
    cases hkey : s.firstPressed with
    | some k =>
      obtain rfl := next_unique h (exec_ldVxK_some x s hkey)
      exact exec_ldVxK_some x (s.overlay c) (hscan.trans hkey)
    | none =>
      rw [next_unique h (exec_ldVxK_none x s hkey)]
      exact exec_ldVxK_none x (s.overlay c) (hscan.trans hkey)
  case drw x y n =>
    obtain rfl := next_unique h (exec_drw x y s n)
    have hdraw := State.overlay_drawRows (s.setV Reg.F 0) c (s.getV x) (s.getV y) n
    exact congrArg (fun u => Host.Outcome.next (State.advance u)) hdraw
  case stRegs x =>
    obtain rfl := next_unique h (exec_stRegs x s)
    rw [exec_stRegs, State.overlay_storeRun]
    rfl
  case ldRegs x =>
    obtain rfl := next_unique h (exec_ldRegs x s)
    rw [exec_ldRegs, State.overlay_loadRun]
    rfl
  all_goals
    obtain rfl := Host.Outcome.next.inj h
    rfl

/-- Settles O50: another ST is a change that CXNN does not see; FX18 overwrites it. -/
theorem soundTimerIsReadByNoInstruction : Obligations.SoundTimerIsReadByNoInstruction := by
  intro i s t b h
  refine ⟨fun hother => ?_, fun ⟨x, hi⟩ => ?_⟩
  · exact exec_overlay ⟨fun _ => b, id, id, id⟩ h (fun _ => ⟨rfl, rfl⟩) fun ⟨x, hi⟩ => absurd hi (hother x)
  · subst hi
    obtain rfl := next_unique h (exec_ldStVx x s)
    exact exec_ldStVx x (s.setSt b)

/-! ### The cycle -/

/-- Settles O48: the fetch and the tick leave the random input alone, and so does every instruction but CXNN. -/
theorem randomInputReachesOnlyRnd : Obligations.RandomInputReachesOnlyRnd := by
  intro s t b n hword h
  obtain ⟨u, hu, rfl⟩ := executes_of_step h
  cases hu with
  | instr i hdec hexec =>
    have hchanged := exec_overlay ⟨id, id, fun _ => b, fun _ => n⟩ hexec
      (fun ⟨x, nn, hi⟩ => absurd (hi ▸ hdec) (hword x nn)) fun _ => rfl
    exact step_of_exec (s := { s with rnd := b, rndDraws := n }) hdec hchanged
  | unknown why hdec hraise =>
    subst hraise
    exact step_of_unknown (s := { s with rnd := b, rndDraws := n }) hdec

/-- Settles O49: the fetch overwrites OPCODE and ERR, the tick SOUND_EDGE, and no instruction in between reads the old
SOUND_EDGE. -/
theorem oldOutputsDecideNothing : Obligations.OldOutputsDecideNothing := by
  intro s w e b
  obtain ⟨u, hu, hstep⟩ := step_executes s
  rw [hstep]
  cases hu with
  | instr i hdec hexec =>
    have hchanged := exec_overlay ⟨id, fun _ => b, id, id⟩ hexec (fun _ => ⟨rfl, rfl⟩) fun _ => rfl
    exact step_of_exec (s := { s with opcode := w, err := e, soundEdge := b })
      (u := u.overlay ⟨id, fun _ => b, id, id⟩) hdec hchanged
  | unknown why hdec hraise =>
    subst hraise
    exact step_of_unknown (s := { s with opcode := w, err := e, soundEdge := b }) hdec

end Sys2Proof.Machine
end
